-- ==== Sys2Proof/Word.lean ====
section
/-! DEFINITION. The words that cross the interface (R48): a 32-bit command word in, a 32-bit response word out. -/

namespace Sys2Proof

/-- A command word or a response word: "a 32-bit command word from the host and a 32-bit response word to the host" (R48). -/
abbrev Word := BitVec 32

end Sys2Proof
end

