-- ==== Sys2Proof/Syntax.lean ====
section
/-! DEFINITION. The commands (R62): one constructor per row of spec/opcode_table.json, each with ALL the fields of its word
besides OP. "The OP field alone picks the command. The other fields never change which command runs. They only decide whether
it succeeds" (R62): so a reserved or must-be-zero field is a field of the term too, checked by WellFormed and by the meaning. -/

namespace Sys2Proof

/-- The 14 assigned values of the OP field (R62). -/
inductive Opcode where
  | derive | enc | dec
  | permP10 | permP8 | permP4 | permEP | permIP1 | permIP2
  | rotl5 | sbox1 | sbox2
  | round | swap
deriving DecidableEq, Repr

/-- A command. `rsv` is the RSV field, `b` and `c` are the fields B and C where the opcode uses neither (R60, R67); every other
argument is named after what its field holds (R68). Field A is 10 bits wide in every command; the core uses its low `wA` bits (R61). -/
inductive Instr where
  /-- DERIVE key (R142). -/
  | derive (rsv : BitVec 2) (key : BitVec 10) (b : BitVec 8) (c : BitVec 8)
  /-- ENC code, k1, k2 (R172). -/
  | enc (rsv : BitVec 2) (code : BitVec 10) (k1 : BitVec 8) (k2 : BitVec 8)
  /-- DEC code, k1, k2 (R173): K1 in B and K2 in C, as for ENC. -/
  | dec (rsv : BitVec 2) (code : BitVec 10) (k1 : BitVec 8) (k2 : BitVec 8)
  /-- PERM.P10 v (R120). -/
  | permP10 (rsv : BitVec 2) (v : BitVec 10) (b : BitVec 8) (c : BitVec 8)
  /-- PERM.P8 v (R121). -/
  | permP8 (rsv : BitVec 2) (v : BitVec 10) (b : BitVec 8) (c : BitVec 8)
  /-- PERM.P4 v (R122). -/
  | permP4 (rsv : BitVec 2) (v : BitVec 10) (b : BitVec 8) (c : BitVec 8)
  /-- PERM.EP v (R123). -/
  | permEP (rsv : BitVec 2) (v : BitVec 10) (b : BitVec 8) (c : BitVec 8)
  /-- PERM.IP1 v (R124). -/
  | permIP1 (rsv : BitVec 2) (v : BitVec 10) (b : BitVec 8) (c : BitVec 8)
  /-- PERM.IP2 v (R125). -/
  | permIP2 (rsv : BitVec 2) (v : BitVec 10) (b : BitVec 8) (c : BitVec 8)
  /-- ROTL5 h, n (R126): the amount n in C. -/
  | rotl5 (rsv : BitVec 2) (h : BitVec 10) (b : BitVec 8) (n : BitVec 8)
  /-- SBOX1 x (R127). -/
  | sbox1 (rsv : BitVec 2) (x : BitVec 10) (b : BitVec 8) (c : BitVec 8)
  /-- SBOX2 x (R128). -/
  | sbox2 (rsv : BitVec 2) (x : BitVec 10) (b : BitVec 8) (c : BitVec 8)
  /-- ROUND v, k (R160): the subkey k in B. -/
  | round (rsv : BitVec 2) (v : BitVec 10) (k : BitVec 8) (c : BitVec 8)
  /-- SWAP v (R161). -/
  | swap (rsv : BitVec 2) (v : BitVec 10) (b : BitVec 8) (c : BitVec 8)
deriving DecidableEq, Repr

/-- The fields of a command word besides OP (R60). -/
structure Fields where
  rsv : BitVec 2
  a : BitVec 10
  b : BitVec 8
  c : BitVec 8
deriving DecidableEq, Repr

/-- Which of the 14 commands a term is (R62). -/
def Instr.opcode : Instr → Opcode
  | .derive .. => .derive
  | .enc .. => .enc
  | .dec .. => .dec
  | .permP10 .. => .permP10
  | .permP8 .. => .permP8
  | .permP4 .. => .permP4
  | .permEP .. => .permEP
  | .permIP1 .. => .permIP1
  | .permIP2 .. => .permIP2
  | .rotl5 .. => .rotl5
  | .sbox1 .. => .sbox1
  | .sbox2 .. => .sbox2
  | .round .. => .round
  | .swap .. => .swap

/-- The fields a term stands for, each in its place of R60. -/
def Instr.fields : Instr → Fields
  | .derive rsv key b c => ⟨rsv, key, b, c⟩
  | .enc rsv code k1 k2 => ⟨rsv, code, k1, k2⟩
  | .dec rsv code k1 k2 => ⟨rsv, code, k1, k2⟩
  | .permP10 rsv v b c => ⟨rsv, v, b, c⟩
  | .permP8 rsv v b c => ⟨rsv, v, b, c⟩
  | .permP4 rsv v b c => ⟨rsv, v, b, c⟩
  | .permEP rsv v b c => ⟨rsv, v, b, c⟩
  | .permIP1 rsv v b c => ⟨rsv, v, b, c⟩
  | .permIP2 rsv v b c => ⟨rsv, v, b, c⟩
  | .rotl5 rsv h b n => ⟨rsv, h, b, n⟩
  | .sbox1 rsv x b c => ⟨rsv, x, b, c⟩
  | .sbox2 rsv x b c => ⟨rsv, x, b, c⟩
  | .round rsv v k c => ⟨rsv, v, k, c⟩
  | .swap rsv v b c => ⟨rsv, v, b, c⟩

/-- The word of no command, by name: "OP = 0x0 and OP = 0xF are reserved" (R65). The meaning of such a word is a response with
status ILLEGAL (R202 a), given by the step. -/
inductive DecodeError where
  /-- OP holds a value that R62 assigns to no command. -/
  | reservedOpcode (op : BitVec 4)
deriving DecidableEq, Repr

end Sys2Proof
end

