-- ==== Sys2Proof/Machine/Operands.lean ====
section
/-! DEFINITION. The operand rules of each opcode: which fields must be zero (R67), how wide the input in field A is (R68), and
the narrowing of field A to that width (R61, R100). There is one operand form: an unsigned field read straight from the word (R61). -/

namespace Sys2Proof.Machine

/-- Is the command of the unit-access group, opcodes 0x4 to 0xE (R64)? -/
def isUnitAccess : Opcode → Bool
  | .derive | .enc | .dec => false
  | .permP10 | .permP8 | .permP4 | .permEP | .permIP1 | .permIP2 => true
  | .rotl5 | .sbox1 | .sbox2 | .round | .swap => true

/-- R67: must field B be zero? -/
def mustZeroB : Opcode → Bool
  | .enc | .dec | .round => false
  | .derive | .permP10 | .permP8 | .permP4 | .permEP | .permIP1 | .permIP2 => true
  | .rotl5 | .sbox1 | .sbox2 | .swap => true

/-- R67: must field C be zero? -/
def mustZeroC : Opcode → Bool
  | .enc | .dec | .rotl5 => false
  | .derive | .permP10 | .permP8 | .permP4 | .permEP | .permIP1 | .permIP2 => true
  | .sbox1 | .sbox2 | .round | .swap => true

/-- R68: the width `wA` of the input in field A. -/
def inputWidth : Opcode → Nat
  | .derive | .permP10 | .permP8 => 10
  | .enc | .dec | .permIP1 | .permIP2 | .round | .swap => 8
  | .rotl5 => 5
  | .permP4 | .permEP | .sbox1 | .sbox2 => 4

/-- "if A >= 2^wA(OP)" (R69): field A holds a value too wide for the command's input. -/
def tooWide (op : Opcode) (a : BitVec 10) : Bool :=
  Nat.ble (2 ^ inputWidth op) a.toNat

/-- `A[w-1:0]`, "the low `wA` bits of A" (R61). It is taken only where the bits above are zero (R100, R203), so nothing is truncated. -/
def lowBits (w : Nat) (a : BitVec 10) : BitVec w :=
  a.setWidth w

end Sys2Proof.Machine
end

