-- ==== Sys2Proof/WellFormed.lean ====
section
/-! DEFINITION. Which terms are well formed: those whose words "complete with status OK" where their unit exists (the opcode
table's `match` and `mask`, 30_encoding.md). The checks are R66, R67 and R68. -/

namespace Sys2Proof

/-- R66: "The RSV field `cmd[27:26]` must be `00` for every opcode." -/
def Instr.reservedIsZero (i : Instr) : Bool :=
  i.fields.rsv == 0

/-- R67, field B. -/
def Instr.unusedBIsZero (i : Instr) : Bool :=
  !Machine.mustZeroB i.opcode || i.fields.b == 0

/-- R67, field C. -/
def Instr.unusedCIsZero (i : Instr) : Bool :=
  !Machine.mustZeroC i.opcode || i.fields.c == 0

/-- R68: the operand in field A fits the input width of its unit. -/
def Instr.operandFits (i : Instr) : Bool :=
  !Machine.tooWide i.opcode i.fields.a

/-- A command that no check of R69 besides the presence of its unit turns away. -/
def Instr.WellFormed (i : Instr) : Bool :=
  i.reservedIsZero && i.unusedBIsZero && i.unusedCIsZero && i.operandFits

end Sys2Proof
end

