-- ==== Sys2Proof/Decode.lean ====
section
/-! DEFINITION. The decoder, total on words, and the encoder, both from R60 and R62. The core takes whole words (R45, R48), so a
word is what the decoder reads. -/

namespace Sys2Proof

/-- `cmd[31:28]` (R60). -/
def fieldOp (w : Word) : BitVec 4 := w.extractLsb' 28 4

/-- `cmd[27:26]` (R60). -/
def fieldRsv (w : Word) : BitVec 2 := w.extractLsb' 26 2

/-- `cmd[25:16]` (R60). -/
def fieldA (w : Word) : BitVec 10 := w.extractLsb' 16 10

/-- `cmd[15:8]` (R60). -/
def fieldB (w : Word) : BitVec 8 := w.extractLsb' 8 8

/-- `cmd[7:0]` (R60). -/
def fieldC (w : Word) : BitVec 8 := w.extractLsb' 0 8

/-- The opcode an OP value selects; 0x0 and 0xF select none (R62). -/
def opcodeOf (op : BitVec 4) : Option Opcode :=
  match op.toNat with
  | 0x1 => some .derive
  | 0x2 => some .enc
  | 0x3 => some .dec
  | 0x4 => some .permP10
  | 0x5 => some .permP8
  | 0x6 => some .permP4
  | 0x7 => some .permEP
  | 0x8 => some .permIP1
  | 0x9 => some .permIP2
  | 0xA => some .rotl5
  | 0xB => some .sbox1
  | 0xC => some .sbox2
  | 0xD => some .round
  | 0xE => some .swap
  | _ => none

/-- The command of an opcode and the word's other fields (R60, R68). -/
def instrOf (op : Opcode) (f : Fields) : Instr :=
  match op with
  | .derive => .derive f.rsv f.a f.b f.c
  | .enc => .enc f.rsv f.a f.b f.c
  | .dec => .dec f.rsv f.a f.b f.c
  | .permP10 => .permP10 f.rsv f.a f.b f.c
  | .permP8 => .permP8 f.rsv f.a f.b f.c
  | .permP4 => .permP4 f.rsv f.a f.b f.c
  | .permEP => .permEP f.rsv f.a f.b f.c
  | .permIP1 => .permIP1 f.rsv f.a f.b f.c
  | .permIP2 => .permIP2 f.rsv f.a f.b f.c
  | .rotl5 => .rotl5 f.rsv f.a f.b f.c
  | .sbox1 => .sbox1 f.rsv f.a f.b f.c
  | .sbox2 => .sbox2 f.rsv f.a f.b f.c
  | .round => .round f.rsv f.a f.b f.c
  | .swap => .swap f.rsv f.a f.b f.c

/-- The fields of a word besides OP (R60, R61: "read straight from its bits"). -/
def fieldsOf (w : Word) : Fields :=
  ⟨fieldRsv w, fieldA w, fieldB w, fieldC w⟩

/-- The command of a word. "The OP field alone picks the command" (R62), so the only words of no command are those of the two
reserved opcodes; a word that a later check of R69 turns away decodes, and its meaning is the error response (log 6). -/
def decode (w : Word) : Except DecodeError Instr :=
  match opcodeOf (fieldOp w) with
  | some op => .ok (instrOf op (fieldsOf w))
  | none => .error (.reservedOpcode (fieldOp w))

/-- The OP value of an opcode (R62). -/
def opcodeBits : Opcode → BitVec 4
  | .derive => 0x1
  | .enc => 0x2
  | .dec => 0x3
  | .permP10 => 0x4
  | .permP8 => 0x5
  | .permP4 => 0x6
  | .permEP => 0x7
  | .permIP1 => 0x8
  | .permIP2 => 0x9
  | .rotl5 => 0xA
  | .sbox1 => 0xB
  | .sbox2 => 0xC
  | .round => 0xD
  | .swap => 0xE

/-- A word from its five fields, OP in the highest bits (R60). -/
def wordOf (op : BitVec 4) (f : Fields) : Word :=
  (op ++ f.rsv ++ f.a ++ f.b ++ f.c).cast rfl

/-- The word of a command (R60, R62). -/
def encode (i : Instr) : Word :=
  wordOf (opcodeBits i.opcode) i.fields

/-- One row of spec/opcode_table.json: "`match` and `mask` select exactly the words of an opcode that complete with status OK"
(30_encoding.md). -/
structure TableRow where
  opcode : Opcode
  matchBits : Word
  mask : Word
deriving DecidableEq, Repr

/-- spec/opcode_table.json, in its order. -/
def opcodeTable : List TableRow :=
  [ ⟨.derive, 0x10000000, 0xFC00FFFF⟩,
    ⟨.enc, 0x20000000, 0xFF000000⟩,
    ⟨.dec, 0x30000000, 0xFF000000⟩,
    ⟨.permP10, 0x40000000, 0xFC00FFFF⟩,
    ⟨.permP8, 0x50000000, 0xFC00FFFF⟩,
    ⟨.permP4, 0x60000000, 0xFFF0FFFF⟩,
    ⟨.permEP, 0x70000000, 0xFFF0FFFF⟩,
    ⟨.permIP1, 0x80000000, 0xFF00FFFF⟩,
    ⟨.permIP2, 0x90000000, 0xFF00FFFF⟩,
    ⟨.rotl5, 0xA0000000, 0xFFE0FF00⟩,
    ⟨.sbox1, 0xB0000000, 0xFFF0FFFF⟩,
    ⟨.sbox2, 0xC0000000, 0xFFF0FFFF⟩,
    ⟨.round, 0xD0000000, 0xFF0000FF⟩,
    ⟨.swap, 0xE0000000, 0xFF00FFFF⟩ ]

/-- Does a word match a row of the table? -/
def rowMatches (r : TableRow) (w : Word) : Bool :=
  w &&& r.mask == r.matchBits

/-- The command word whose bits are `w`, of a table row of `nbits` bits; every bit above `nbits` is 0. -/
def tableWord (nbits w : Nat) : Word :=
  BitVec.ofNat 32 (w % 2 ^ nbits)

/-- What the decoder reads from the word of a table row. The core is given a word, not bytes (R45): no byte order enters. -/
def decodeTableWord (nbits w : Nat) : Option Instr :=
  match decode (tableWord nbits w) with
  | .ok i => some i
  | .error _ => none

end Sys2Proof
end

