-- ==== Sys2Proof/Config.lean ====
section
/-! DEFINITION. The OPEN parameters of the hardware (93_implementation_defined.md part 2). The ones a command can observe form
`Parameters`, which the machine's functions take as an argument; the values a particular chip has are the constants
`Config.…`, which have no body, so that nothing can be proved of them. -/

namespace Sys2Proof

/-- One row of an S-box, columns 0 to 3 (R106): "tables whose entries are `bits(2)`" (R107). -/
structure SBoxRow where
  c0 : BitVec 2
  c1 : BitVec 2
  c2 : BitVec 2
  c3 : BitVec 2
deriving DecidableEq, Repr, Inhabited

/-- A 4×4 table of 2-bit values, rows 0 to 3 (R7, R106, R107). -/
structure SBoxTable where
  r0 : SBoxRow
  r1 : SBoxRow
  r2 : SBoxRow
  r3 : SBoxRow
deriving DecidableEq, Repr, Inhabited

/-- The parameters that the spec leaves OPEN and that the core's behaviour at the command port depends on. They are "fixed for
the lifetime of the hardware" (R22): no step of the machine writes one.
DESIGN CHOICE (log 2): the machine carries them beside its queue, because the form of `exec` gives a meaning no other argument. -/
structure Parameters where
  /-- Contents of S1, OPEN (R7, R114). -/
  sbox1 : SBoxTable
  /-- Contents of S2, OPEN (R7, R115). -/
  sbox2 : SBoxTable
  /-- `UNIT_ACCESS`, OPEN (R9): do opcodes 0x4 to 0xE exist? -/
  unitAccess : Bool
  /-- How many commands `pending` can hold beside a first one; `none` leaves it unbounded (R25). It always has a place for one,
since the core accepts commands immediately after reset (R231). DESIGN CHOICE (log 3). -/
  extraPlaces : Option Nat
deriving DecidableEq, Repr, Inhabited

/-- The implementation's bound of `pending` (R25), if it has one: at least 1 (R231, log 3). -/
def Parameters.pendingBound (p : Parameters) : Option Nat :=
  p.extraPlaces.map (· + 1)

/-- Contents of S1 in the chip at hand: given nowhere in the source (R7, D15), so nothing is known of them. -/
opaque Config.sbox1 : SBoxTable

/-- Contents of S2 in the chip at hand (R7, D15). The spec lets a model assume that they differ from S1's; this one does not (log 9). -/
opaque Config.sbox2 : SBoxTable

/-- `UNIT_ACCESS` in the chip at hand (R9, D9). -/
opaque Config.unitAccess : Bool

/-- The places of `pending` beside a first one in the chip at hand (R25, R231). -/
opaque Config.extraPlaces : Option Nat

/-- How many instances a system has beside the first one (R10, D20). -/
opaque Config.moreInstances : Nat

/-- `NUM_INSTANCES`, at least 1 (R10). -/
def Config.numInstances : Nat := Config.moreInstances + 1

/-- The parameters of the chip at hand. -/
def Config.parameters : Parameters where
  sbox1 := Config.sbox1
  sbox2 := Config.sbox2
  unitAccess := Config.unitAccess
  extraPlaces := Config.extraPlaces

end Sys2Proof
end

