-- ==== Sys2Proof/Machine/State.lean ====
section
/-! DEFINITION. The state of one instance of SDES-CORE (10_state.md): the interface queue, and beside it the responses the host
has been given and the chip's parameters. There is no register, no program counter, no flag and no memory (R20, R40). -/

namespace Sys2Proof.Machine

/-- One instance of SDES-CORE at one moment. -/
structure State where
  /-- "a first-in first-out sequence of command words the core has accepted and not yet answered" (R25), the oldest first. -/
  pending : List Word
  /-- The responses delivered to the host, the oldest first: the observation of R244. The MODEL's own field (log 1): no command
  reads it, and a reset leaves it, since the host has had these words. -/
  responses : List Word
  /-- The chip's OPEN parameters: constants, which no step, no reset and no host action writes (R22, log 2). -/
  params : Parameters
deriving DecidableEq, Repr

/-- Reasons to stop with a fault: NONE. "There is no other outcome: no hang, no stuck state and no unanswered word" (R210); "SDES-CORE
has no traps" (R213). An error is a response with a status (R200), and the step goes on (log 10). -/
inductive Fault
deriving DecidableEq, Repr

/-- Reasons to refuse. No arm of `exec` refuses: every command has its meaning, and every word its response (R210). -/
inductive Refusal where
  /-- Raised by no meaning of this model: an arm of `exec` for an instruction without a meaning would answer with it. Safe: the
  machine would stop where the hardware goes on. -/
  | notModelled (mnemonic : String)
deriving DecidableEq, Repr

/-- Right after reset: `pending` is empty (R28, R230), nothing has been delivered yet (log 1), and the parameters are the chip's (log 2). -/
def State.reset : State where
  pending := []
  responses := []
  params := Config.parameters

end Sys2Proof.Machine
end

