-- ==== Sys2Proof/Machine/Tables.lean ====
section
/-! DEFINITION. The six constant permutation tables (R22, R108 to R113), each "1-based source positions, in output order", and the
reading of an S-box table. -/

namespace Sys2Proof.Machine

/-- A permutation table from `wi` bits to `wo` bits: for each output position, in order, the 1-based position of its source. -/
abbrev PermTable (_wi wo : Nat) := Vector Nat wo

/-- P10, width 10 → 10 (R108). -/
def tableP10 : PermTable 10 10 := #v[3, 5, 2, 7, 4, 10, 1, 9, 8, 6]

/-- P8, width 10 → 8 (R109). -/
def tableP8 : PermTable 10 8 := #v[6, 3, 7, 4, 8, 5, 10, 9]

/-- P4, width 4 → 4 (R110). -/
def tableP4 : PermTable 4 4 := #v[2, 4, 3, 1]

/-- EP, width 4 → 8 (R111); the table is normative over the source's prose (C1). -/
def tableEP : PermTable 4 8 := #v[4, 1, 2, 3, 2, 3, 4, 1]

/-- IP1, width 8 → 8 (R112). -/
def tableIP1 : PermTable 8 8 := #v[2, 6, 3, 1, 4, 8, 5, 7]

/-- IP2, width 8 → 8 (R113). -/
def tableIP2 : PermTable 8 8 := #v[4, 1, 3, 5, 7, 2, 8, 6]

/-- Column `col` of a row, numbered from 0 (R106). -/
def sboxColumn (r : SBoxRow) (col : BitVec 2) : BitVec 2 :=
  match col.toNat with
  | 0 => r.c0
  | 1 => r.c1
  | 2 => r.c2
  | _ => r.c3

/-- `S[row][col]` (R106): rows and columns numbered from 0. -/
def sboxEntry (S : SBoxTable) (row col : BitVec 2) : BitVec 2 :=
  match row.toNat with
  | 0 => sboxColumn S.r0 col
  | 1 => sboxColumn S.r1 col
  | 2 => sboxColumn S.r2 col
  | _ => sboxColumn S.r3 col

end Sys2Proof.Machine
end

