-- ==== Sys2Proof/Machine/Ops.lean ====
section
/-! DEFINITION. The leaf units on values (R101 to R106), and the operations on the queue and the response log (R25, R230).
There are no registers and no memory to operate on (R20, R40), and no exception to take or to return from (R213, R214): an
error is a response like any other. -/

namespace Sys2Proof.Machine

/-! ### Bit units -/

/-- Element `p` (1 = first = leftmost) of the sequence of a `w`-bit value is `v[w - p]` (R12). -/
def seqpos {w : Nat} (v : BitVec w) (p : Nat) : Bool :=
  v.getLsbD (w - p)

/-- R101: `out[wo - i] <- v[wi - T[i]]` for each position `i` in 1..wo. Bit `j` of the output is output position `wo - j`, which
is entry `wo - 1 - j` of the table counted from 0. -/
def perm {wi wo : Nat} (T : PermTable wi wo) (v : BitVec wi) : BitVec wo :=
  BitVec.ofFnLE fun j => seqpos v (T.get j.rev)

/-- R103: left rotation of a 5-bit value, the amount reduced modulo 5. -/
def rotl5 (h : BitVec 5) (n : Nat) : BitVec 5 :=
  let m := n % 5
  if m = 0 then h else (h <<< m) ||| (h >>> (5 - m))

/-- The row selector of an S-box input, `x[3] ++ x[0]` (R106, C2). -/
def sboxRow (x : BitVec 4) : BitVec 2 :=
  x.extractLsb' 3 1 ++ x.extractLsb' 0 1

/-- The column selector of an S-box input, `x[2] ++ x[1]` (R106, C2). -/
def sboxCol (x : BitVec 4) : BitVec 2 :=
  x.extractLsb' 2 1 ++ x.extractLsb' 1 1

/-- R106: S-box lookup. -/
def sbox (S : SBoxTable) (x : BitVec 4) : BitVec 2 :=
  sboxEntry S (sboxRow x) (sboxCol x)

/-- The left half of an 8-bit value, `v[7:4]` (R102). -/
def leftHalf (v : BitVec 8) : BitVec 4 := v.extractLsb' 4 4

/-- The right half of an 8-bit value, `v[3:0]` (R102). -/
def rightHalf (v : BitVec 8) : BitVec 4 := v.extractLsb' 0 4

/-- The left half of a 10-bit value, `v[9:5]` (R102). -/
def leftHalf10 (v : BitVec 10) : BitVec 5 := v.extractLsb' 5 5

/-- The right half of a 10-bit value, `v[4:0]` (R102). -/
def rightHalf10 (v : BitVec 10) : BitVec 5 := v.extractLsb' 0 5

/-! ### Queue and responses -/

/-- Completing a command "delivers `Exec(c)` to the host" (R25): the response joins the ones delivered. -/
def deliver (s : State) (rsp : Word) : State :=
  { s with responses := s.responses ++ [rsp] }

/-- Can the port accept another command now? Unless the queue is at its bound, where the chip has one (R25, R241, log 3).
An empty queue is below every bound, so the core accepts commands immediately after reset (R231). -/
def canAccept (s : State) : Bool :=
  match s.params.pendingBound with
  | none => true
  | some bound => decide (s.pending.length < bound)

/-- The host offers a command word: "Accepting a command appends its word to the tail of `pending`" (R25), "whole or not at all" (R48). -/
def accept (w : Word) (s : State) : State :=
  if canAccept s then { s with pending := s.pending ++ [w] } else s

/-- The host resets the core: "Reset empties `pending`", and "Reset changes nothing else" (R230). -/
def resetCore (s : State) : State :=
  { s with pending := [] }

end Sys2Proof.Machine
end

