-- ==== Sys2Proof/Machine/Flags.lean ====
section
/-! DEFINITION. SDES-CORE has no flags (R20). What stands in their place is the completion status in each response (R23, R200):
how it is decided (R69, R202 to R204) and how a response word is laid out (R70, R210, R211). -/

namespace Sys2Proof.Machine

/-- The completion statuses (R200): "these four values and no others". -/
inductive Status where
  | ok | illegal | size | range
deriving DecidableEq, Repr

/-- The status codes of `rsp[31:28]` (R200). -/
def statusBits : Status → BitVec 4
  | .ok => 0
  | .illegal => 1
  | .size => 2
  | .range => 3

/-- "if OP in {ENC, DEC}: raise RangeViolation() else: raise SizeViolation()" (R69, R203). -/
def widthError : Opcode → Status
  | .enc | .dec => .range
  | .derive | .permP10 | .permP8 | .permP4 | .permEP | .permIP1 | .permIP2 => .size
  | .rotl5 | .sbox1 | .sbox2 | .round | .swap => .size

/-- The checks of R69 on a command whose opcode is assigned, in the order of R204. -/
def commandStatus (p : Parameters) (op : Opcode) (rsv : BitVec 2) (a : BitVec 10) (b c : BitVec 8) : Status :=
  if isUnitAccess op && !p.unitAccess then .illegal
  else if rsv ≠ 0 then .illegal
  else if mustZeroB op && b != 0 then .illegal
  else if mustZeroC op && c != 0 then .illegal
  else if tooWide op a then widthError op
  else .ok

/-- The response word: STATUS, twelve zeros, RES (R70), "0 when STATUS ≠ OK" (R70, R211). -/
def responseWord (st : Status) (res : BitVec 16) : Word :=
  match st with
  | .ok => statusBits .ok ++ (0 : BitVec 12) ++ res
  | e => statusBits e ++ (0 : BitVec 28)

/-- The one way a command completes (R210): the response with the status the checks decide, and the result where that is OK. -/
def complete (s : State) (st : Status) (res : BitVec 16) : Host.Outcome State Fault Refusal :=
  .next (deliver s (responseWord st res))

end Sys2Proof.Machine
end

