-- ==== Sys2Proof/Machine/BitUnits.lean ====
section
/-! DEFINITION. The unit-access commands of the bit permutation / rotation unit and the S-box lookup unit (40_bit_units.md section 3). -/

namespace Sys2Proof.Machine

/-- PERM.P10 (R120). -/
def execPermP10 (rsv : BitVec 2) (v : BitVec 10) (b c : BitVec 8) (s : State) : Host.Outcome State Fault Refusal :=
  complete s (commandStatus s.params .permP10 rsv v b c) ((perm tableP10 (lowBits 10 v)).setWidth 16)

/-- PERM.P8 (R121). -/
def execPermP8 (rsv : BitVec 2) (v : BitVec 10) (b c : BitVec 8) (s : State) : Host.Outcome State Fault Refusal :=
  complete s (commandStatus s.params .permP8 rsv v b c) ((perm tableP8 (lowBits 10 v)).setWidth 16)

/-- PERM.P4 (R122). -/
def execPermP4 (rsv : BitVec 2) (v : BitVec 10) (b c : BitVec 8) (s : State) : Host.Outcome State Fault Refusal :=
  complete s (commandStatus s.params .permP4 rsv v b c) ((perm tableP4 (lowBits 4 v)).setWidth 16)

/-- PERM.EP (R123). -/
def execPermEP (rsv : BitVec 2) (v : BitVec 10) (b c : BitVec 8) (s : State) : Host.Outcome State Fault Refusal :=
  complete s (commandStatus s.params .permEP rsv v b c) ((perm tableEP (lowBits 4 v)).setWidth 16)

/-- PERM.IP1 (R124). -/
def execPermIP1 (rsv : BitVec 2) (v : BitVec 10) (b c : BitVec 8) (s : State) : Host.Outcome State Fault Refusal :=
  complete s (commandStatus s.params .permIP1 rsv v b c) ((perm tableIP1 (lowBits 8 v)).setWidth 16)

/-- PERM.IP2 (R125). -/
def execPermIP2 (rsv : BitVec 2) (v : BitVec 10) (b c : BitVec 8) (s : State) : Host.Outcome State Fault Refusal :=
  complete s (commandStatus s.params .permIP2 rsv v b c) ((perm tableIP2 (lowBits 8 v)).setWidth 16)

/-- ROTL5 (R126): any amount, reduced modulo 5; no error for an amount of 5 or more. -/
def execRotl5 (rsv : BitVec 2) (h : BitVec 10) (b n : BitVec 8) (s : State) : Host.Outcome State Fault Refusal :=
  complete s (commandStatus s.params .rotl5 rsv h b n) ((rotl5 (lowBits 5 h) n.toNat).setWidth 16)

/-- SBOX1 (R127). -/
def execSbox1 (rsv : BitVec 2) (x : BitVec 10) (b c : BitVec 8) (s : State) : Host.Outcome State Fault Refusal :=
  complete s (commandStatus s.params .sbox1 rsv x b c) ((sbox s.params.sbox1 (lowBits 4 x)).setWidth 16)

/-- SBOX2 (R128). -/
def execSbox2 (rsv : BitVec 2) (x : BitVec 10) (b c : BitVec 8) (s : State) : Host.Outcome State Fault Refusal :=
  complete s (commandStatus s.params .sbox2 rsv x b c) ((sbox s.params.sbox2 (lowBits 4 x)).setWidth 16)

end Sys2Proof.Machine
end

