-- ==== Sys2Proof/Machine/RoundEngine.lean ====
section
/-! DEFINITION. The Feistel round engine and the commands ROUND and SWAP (42_round_engine.md). -/

namespace Sys2Proof.Machine

/-- R150: the round function F, over the two S-box tables (R7: "A model takes both tables as arguments"). -/
def roundF (S1 S2 : SBoxTable) (r : BitVec 4) (k : BitVec 8) : BitVec 4 :=
  let x := perm tableEP r ^^^ k
  perm tableP4 (sbox S1 (leftHalf x) ++ sbox S2 (rightHalf x))

/-- R151: one Feistel round. -/
def feistelRound (S1 S2 : SBoxTable) (v k : BitVec 8) : BitVec 8 :=
  (leftHalf v ^^^ roundF S1 S2 (rightHalf v) k) ++ rightHalf v

/-- R153: the half-swap. -/
def halfSwap (v : BitVec 8) : BitVec 8 :=
  rightHalf v ++ leftHalf v

/-- ROUND (R160). -/
def execRound (rsv : BitVec 2) (v : BitVec 10) (k c : BitVec 8) (s : State) : Host.Outcome State Fault Refusal :=
  complete s (commandStatus s.params .round rsv v k c)
    ((feistelRound s.params.sbox1 s.params.sbox2 (lowBits 8 v) k).setWidth 16)

/-- SWAP (R161). -/
def execSwap (rsv : BitVec 2) (v : BitVec 10) (b c : BitVec 8) (s : State) : Host.Outcome State Fault Refusal :=
  complete s (commandStatus s.params .swap rsv v b c) ((halfSwap (lowBits 8 v)).setWidth 16)

end Sys2Proof.Machine
end

