-- ==== Sys2Proof/Machine/CipherPipeline.lean ====
section
/-! DEFINITION. The cipher pipeline and the commands ENC and DEC (43_cipher_pipeline.md). -/

namespace Sys2Proof.Machine

/-- R170: encryption of one symbol. -/
def encrypt (S1 S2 : SBoxTable) (code k1 k2 : BitVec 8) : BitVec 8 :=
  let b1 := perm tableIP1 code
  let b2 := feistelRound S1 S2 b1 k1
  let b3 := halfSwap b2
  let b4 := feistelRound S1 S2 b3 k2
  perm tableIP2 b4

/-- R171: decryption, "subkey order reversed". -/
def decrypt (S1 S2 : SBoxTable) (code k1 k2 : BitVec 8) : BitVec 8 :=
  encrypt S1 S2 code k2 k1

/-- ENC (R172). -/
def execEnc (rsv : BitVec 2) (code : BitVec 10) (k1 k2 : BitVec 8) (s : State) : Host.Outcome State Fault Refusal :=
  complete s (commandStatus s.params .enc rsv code k1 k2)
    ((encrypt s.params.sbox1 s.params.sbox2 (lowBits 8 code) k1 k2).setWidth 16)

/-- DEC (R173): K1 and K2 in the same fields as ENC; "The core applies them in reverse order." -/
def execDec (rsv : BitVec 2) (code : BitVec 10) (k1 k2 : BitVec 8) (s : State) : Host.Outcome State Fault Refusal :=
  complete s (commandStatus s.params .dec rsv code k1 k2)
    ((decrypt s.params.sbox1 s.params.sbox2 (lowBits 8 code) k1 k2).setWidth 16)

end Sys2Proof.Machine
end

