-- ==== Sys2Proof/Machine/KeySchedule.lean ====
section
/-! DEFINITION. The S-DES key schedule and the command DERIVE (41_key_schedule.md). -/

namespace Sys2Proof.Machine

/-- R141: the subkey pair (K1, K2) of a master key. -/
def keySched (key : BitVec 10) : BitVec 8 × BitVec 8 :=
  let p := perm tableP10 key
  let l1 := rotl5 (leftHalf10 p) 1
  let r1 := rotl5 (rightHalf10 p) 1
  let l3 := rotl5 l1 2
  let r3 := rotl5 r1 2
  (perm tableP8 (l1 ++ r1), perm tableP8 (l3 ++ r3))

/-- DERIVE (R142): RES is K1 ++ K2. No subkey is kept (R20). -/
def execDerive (rsv : BitVec 2) (key : BitVec 10) (b c : BitVec 8) (s : State) : Host.Outcome State Fault Refusal :=
  complete s (commandStatus s.params .derive rsv key b c)
    ((keySched (lowBits 10 key)).1 ++ (keySched (lowBits 10 key)).2)

end Sys2Proof.Machine
end

