-- ==== Sys2Proof/Machine/Dispatch.lean ====
section
/-! DEFINITION. One arm per command (R62). -/

namespace Sys2Proof.Machine

def exec (i : Instr) (s : State) : Host.Outcome State Fault Refusal :=
  match i with
  -- primary commands (R63)
  | .derive rsv key b c => Sys2Proof.Machine.execDerive rsv key b c s
  | .enc rsv code k1 k2 => Sys2Proof.Machine.execEnc rsv code k1 k2 s
  | .dec rsv code k1 k2 => Sys2Proof.Machine.execDec rsv code k1 k2 s
  -- unit-access commands (R64)
  | .permP10 rsv v b c => Sys2Proof.Machine.execPermP10 rsv v b c s
  | .permP8 rsv v b c => Sys2Proof.Machine.execPermP8 rsv v b c s
  | .permP4 rsv v b c => Sys2Proof.Machine.execPermP4 rsv v b c s
  | .permEP rsv v b c => Sys2Proof.Machine.execPermEP rsv v b c s
  | .permIP1 rsv v b c => Sys2Proof.Machine.execPermIP1 rsv v b c s
  | .permIP2 rsv v b c => Sys2Proof.Machine.execPermIP2 rsv v b c s
  | .rotl5 rsv h b n => Sys2Proof.Machine.execRotl5 rsv h b n s
  | .sbox1 rsv x b c => Sys2Proof.Machine.execSbox1 rsv x b c s
  | .sbox2 rsv x b c => Sys2Proof.Machine.execSbox2 rsv x b c s
  | .round rsv v k c => Sys2Proof.Machine.execRound rsv v k c s
  | .swap rsv v b c => Sys2Proof.Machine.execSwap rsv v b c s

end Sys2Proof.Machine
end

