-- ==== Sys2Proof/Machine/Queue.lean ====
section
/-! DEFINITION. The head of the queue, where the next command to complete is taken from (R25), and the completion of a word of no
command. -/

namespace Sys2Proof.Machine

/-- The oldest pending command word and the state without it (R25: first in, first out). -/
def takeHead (s : State) : Option (Word × State) :=
  match s.pending with
  | [] => none
  | cmd :: rest => some (cmd, { s with pending := rest })

/-- A word put before all that is pending, so that it completes next: for the host's `withFetchWord` only (log 5). -/
def placeAtHead (w : Word) (s : State) : State :=
  { s with pending := w :: s.pending }

/-- A word of no command: "They are illegal in every configuration and complete with status ILLEGAL" (R65, R202 a). -/
def completeUndecoded (e : DecodeError) (s : State) : Host.Outcome State Fault Refusal :=
  match e with
  | .reservedOpcode _ => complete s .illegal 0

end Sys2Proof.Machine
end

