-- ==== Sys2Proof/Machine/Step.lean ====
section
/-! DEFINITION. One step: the completion of the oldest pending command (R25). -/

namespace Sys2Proof.Machine

/-- The completion step of R25: "Completing a command removes the head word `c` and delivers `Exec(c)` to the host". With nothing
pending there is nothing to complete, and the machine waits as it is (log 4). -/
def step (s : State) : Host.Outcome State Fault Refusal :=
  match takeHead s with
  | none => .next s
  | some (cmd, rest) =>
    match decode cmd with
    | .ok i => exec i rest
    | .error e => completeUndecoded e rest

/-- `s` with the word of a table row as the command that completes next (log 5). The core has no program: its commands are what
the host delivers (R53), and the head of `pending` is where the next one is taken from (R25). -/
def State.withFetchWord (s : State) (nbits w : Nat) : State :=
  placeAtHead (tableWord nbits w) s

end Sys2Proof.Machine
end

