-- ==== Sys2Proof/Machine/Assembler.lean ====
section
/-! DEFINITION. The assembler of R72, "the spec's own textual form": from a line of text to a line of numbers, and from that to a word.
It has no effect on behaviour (D22). -/

namespace Sys2Proof.Machine

/-- A line: a mnemonic with its operands, or `.word w` (R72). -/
inductive AsmLine where
  | derive (key : Nat)
  | enc (code k1 k2 : Nat)
  | dec (code k1 k2 : Nat)
  | permP10 (v : Nat)
  | permP8 (v : Nat)
  | permP4 (v : Nat)
  | permEP (v : Nat)
  | permIP1 (v : Nat)
  | permIP2 (v : Nat)
  | rotl5 (h n : Nat)
  | sbox1 (x : Nat)
  | sbox2 (x : Nat)
  | round (v k : Nat)
  | swap (v : Nat)
  | word (w : Word)
deriving DecidableEq, Repr

/-- Why a line does not assemble. -/
inductive AsmError where
  /-- "An operand that does not fit its field (A ≥ 1024, B or C ≥ 256) is an assembly error" (R72). -/
  | operandDoesNotFit
  /-- The text is none of the forms of R72. -/
  | notAForm
deriving DecidableEq, Repr

/-- "Each operand is placed in its field exactly as given. The assembler does not reduce or truncate any operand" (R72). -/
def assembleFields (op a b c : Nat) : Except AsmError Word :=
  if a < 1024 ∧ b < 256 ∧ c < 256 then
    .ok (wordOf (BitVec.ofNat 4 op) ⟨0, BitVec.ofNat 10 a, BitVec.ofNat 8 b, BitVec.ofNat 8 c⟩)
  else .error .operandDoesNotFit

/-- The table of R72. -/
def assemble : AsmLine → Except AsmError Word
  | .derive key => assembleFields 0x1 key 0 0
  | .enc code k1 k2 => assembleFields 0x2 code k1 k2
  | .dec code k1 k2 => assembleFields 0x3 code k1 k2
  | .permP10 v => assembleFields 0x4 v 0 0
  | .permP8 v => assembleFields 0x5 v 0 0
  | .permP4 v => assembleFields 0x6 v 0 0
  | .permEP v => assembleFields 0x7 v 0 0
  | .permIP1 v => assembleFields 0x8 v 0 0
  | .permIP2 v => assembleFields 0x9 v 0 0
  | .rotl5 h n => assembleFields 0xA h 0 n
  | .sbox1 x => assembleFields 0xB x 0 0
  | .sbox2 x => assembleFields 0xC x 0 0
  | .round v k => assembleFields 0xD v k 0
  | .swap v => assembleFields 0xE v 0 0
  | .word w => .ok w

/-! ### Text -/

/-- Consecutive characters that write consecutive digit values. -/
structure DigitRun where
  first : Char
  firstValue : Nat
  length : Nat
deriving DecidableEq, Repr

/-- The digits of R72's numbers: the ten of decimal, and the six of hex in capitals as R72 writes its own hex numbers, or small
(log 13: R72 does not say which case). -/
def digitRuns : List DigitRun :=
  [⟨'0', 0, 10⟩, ⟨'A', 10, 6⟩, ⟨'a', 10, 6⟩]

/-- The digit value a character has in a run, if it stands in it. -/
def DigitRun.read (r : DigitRun) (ch : Char) : Option Nat :=
  let place := ch.toNat - r.first.toNat
  if r.first.toNat ≤ ch.toNat ∧ place < r.length then some (r.firstValue + place) else none

/-- The value of a character as a digit of a base: it must be less than the base. -/
def digitIn (base : Nat) (ch : Char) : Option Nat :=
  (digitRuns.findSome? (·.read ch)).filter (· < base)

/-- The number that one or more digits of a base write, the first digit the most significant. -/
def readNumeral (base : Nat) (digits : List Char) : Option Nat :=
  if digits.isEmpty then none
  else digits.foldlM (fun higher ch => (digitIn base ch).map (higher * base + ·)) 0

/-- "Operands are unsigned numbers, written in decimal, in hex with `0x`, or in binary with `0b`" (R72). -/
def readNumber : List Char → Option Nat
  | '0' :: 'x' :: digits => readNumeral 16 digits
  | '0' :: 'b' :: digits => readNumeral 2 digits
  | digits => readNumeral 10 digits

/-- The pieces between commas. -/
def splitCommas : List Char → List (List Char)
  | [] => [[]]
  | c :: cs =>
    if c = ',' then [] :: splitCommas cs
    else
      match splitCommas cs with
      | [] => [[c]]
      | piece :: pieces => (c :: piece) :: pieces

/-- A piece of text without the spaces at its ends. -/
def trimSpaces (text : List Char) : List Char :=
  ((text.dropWhile (· == ' ')).reverse.dropWhile (· == ' ')).reverse

/-- All the operands as numbers, or none if one is no number. -/
def readOperands : List (List Char) → Option (List Nat)
  | [] => some []
  | text :: texts =>
    match readNumber (trimSpaces text), readOperands texts with
    | some n, some ns => some (n :: ns)
    | _, _ => none

/-- The forms of R72's table. -/
def lineOf (mnemonic : List Char) (operands : List Nat) : Option AsmLine :=
  match operands with
  | [a] =>
    if mnemonic = ['D', 'E', 'R', 'I', 'V', 'E'] then some (.derive a)
    else if mnemonic = ['P', 'E', 'R', 'M', '.', 'P', '1', '0'] then some (.permP10 a)
    else if mnemonic = ['P', 'E', 'R', 'M', '.', 'P', '8'] then some (.permP8 a)
    else if mnemonic = ['P', 'E', 'R', 'M', '.', 'P', '4'] then some (.permP4 a)
    else if mnemonic = ['P', 'E', 'R', 'M', '.', 'E', 'P'] then some (.permEP a)
    else if mnemonic = ['P', 'E', 'R', 'M', '.', 'I', 'P', '1'] then some (.permIP1 a)
    else if mnemonic = ['P', 'E', 'R', 'M', '.', 'I', 'P', '2'] then some (.permIP2 a)
    else if mnemonic = ['S', 'B', 'O', 'X', '1'] then some (.sbox1 a)
    else if mnemonic = ['S', 'B', 'O', 'X', '2'] then some (.sbox2 a)
    else if mnemonic = ['S', 'W', 'A', 'P'] then some (.swap a)
    else if mnemonic = ['.', 'w', 'o', 'r', 'd'] ∧ a < 2 ^ 32 then some (.word (BitVec.ofNat 32 a))
    else none
  | [a, b] =>
    if mnemonic = ['R', 'O', 'T', 'L', '5'] then some (.rotl5 a b)
    else if mnemonic = ['R', 'O', 'U', 'N', 'D'] then some (.round a b)
    else none
  | [a, b, c] =>
    if mnemonic = ['E', 'N', 'C'] then some (.enc a b c)
    else if mnemonic = ['D', 'E', 'C'] then some (.dec a b c)
    else none
  | _ => none

/-- "One command per line: `MNEMONIC operand, operand, …`" (R72). Spaces before the mnemonic and around operands count for
nothing (log 13). -/
def assembleText (text : List Char) : Except AsmError Word :=
  let body := text.dropWhile (· == ' ')
  let mnemonic := body.takeWhile (· != ' ')
  let rest := body.dropWhile (· != ' ')
  match readOperands (splitCommas rest) with
  | none => .error .notAForm
  | some operands =>
    match lineOf mnemonic operands with
    | none => .error .notAForm
    | some line => assemble line

end Sys2Proof.Machine
end

