-- ==== Sys2Proof/Machine/Reference.lean ====
section
/-! DEFINITION. The reference default S-boxes of 93_implementation_defined.md G1, "[from general knowledge, not in source]": the
textbook S-DES tables. "A model must not hard-code them as SDES-CORE's tables. It may use them as one instance of the parameters"
(G1): the machine names none of these; the spec's S-box-dependent examples and the tests do. -/

namespace Sys2Proof.Machine

/-- SBOX1 of G1 (source S1, left half). -/
def referenceSbox1 : SBoxTable :=
  ⟨⟨1, 0, 3, 2⟩, ⟨3, 2, 1, 0⟩, ⟨0, 2, 1, 3⟩, ⟨3, 1, 3, 2⟩⟩

/-- SBOX2 of G1 (source S2, right half). -/
def referenceSbox2 : SBoxTable :=
  ⟨⟨0, 1, 2, 3⟩, ⟨2, 0, 1, 3⟩, ⟨3, 0, 1, 0⟩, ⟨2, 1, 0, 3⟩⟩

end Sys2Proof.Machine
end

