-- ==== Sys2Proof/Machine/ExecWord.lean ====
section
/-! DEFINITION. The spec's `Exec` (R210), written from the pseudocode of R69 and R210 over the numbers in the word: "the total
function from a command word to its response word". The machine does not use it: it is the clear form that the machine's
decode, dispatch and meanings are claimed to equal. -/

namespace Sys2Proof.Machine

/-- The table of R67, column B, by OP number. -/
def wordMustZeroB (op : Nat) : Bool :=
  !(op == 0x2 || op == 0x3 || op == 0xD)

/-- The table of R67, column C, by OP number. -/
def wordMustZeroC (op : Nat) : Bool :=
  !(op == 0x2 || op == 0x3 || op == 0xA)

/-- The table of R68, by OP number. -/
def wordInputWidth (op : Nat) : Nat :=
  if op = 0x1 ∨ op = 0x4 ∨ op = 0x5 then 10
  else if op = 0x6 ∨ op = 0x7 ∨ op = 0xB ∨ op = 0xC then 4
  else if op = 0xA then 5
  else 8

/-- RES of each OP, placed as R71 says: "Bits of RES not listed are zero". -/
def wordResult (p : Parameters) (op : Nat) (a : BitVec 10) (b c : BitVec 8) : BitVec 16 :=
  match op with
  | 0x1 => (keySched a).1 ++ (keySched a).2
  | 0x2 => (0 : BitVec 8) ++ encrypt p.sbox1 p.sbox2 (a.extractLsb' 0 8) b c
  | 0x3 => (0 : BitVec 8) ++ encrypt p.sbox1 p.sbox2 (a.extractLsb' 0 8) c b
  | 0x4 => (0 : BitVec 6) ++ perm tableP10 a
  | 0x5 => (0 : BitVec 8) ++ perm tableP8 a
  | 0x6 => (0 : BitVec 12) ++ perm tableP4 (a.extractLsb' 0 4)
  | 0x7 => (0 : BitVec 8) ++ perm tableEP (a.extractLsb' 0 4)
  | 0x8 => (0 : BitVec 8) ++ perm tableIP1 (a.extractLsb' 0 8)
  | 0x9 => (0 : BitVec 8) ++ perm tableIP2 (a.extractLsb' 0 8)
  | 0xA => (0 : BitVec 11) ++ rotl5 (a.extractLsb' 0 5) c.toNat
  | 0xB => (0 : BitVec 14) ++ sbox p.sbox1 (a.extractLsb' 0 4)
  | 0xC => (0 : BitVec 14) ++ sbox p.sbox2 (a.extractLsb' 0 4)
  | 0xD => (0 : BitVec 8) ++ feistelRound p.sbox1 p.sbox2 (a.extractLsb' 0 8) b
  | 0xE => (0 : BitVec 8) ++ halfSwap (a.extractLsb' 0 8)
  | _ => 0

/-- `Exec(cmd)` (R210), with the error responses of R202 and R203 in numbers. -/
def execWord (p : Parameters) (cmd : Word) : Word :=
  let op := (fieldOp cmd).toNat
  let a := fieldA cmd
  let b := fieldB cmd
  let c := fieldC cmd
  if op = 0x0 ∨ op = 0xF ∨ (p.unitAccess = false ∧ 0x4 ≤ op ∧ op ≤ 0xE) then 0x10000000
  else if fieldRsv cmd ≠ 0 then 0x10000000
  else if wordMustZeroB op = true ∧ b ≠ 0 then 0x10000000
  else if wordMustZeroC op = true ∧ c ≠ 0 then 0x10000000
  else if 2 ^ wordInputWidth op ≤ a.toNat then
    if op = 0x2 ∨ op = 0x3 then 0x30000000 else 0x20000000
  else (0x0 : BitVec 4) ++ (0 : BitVec 12) ++ wordResult p op a b c

end Sys2Proof.Machine
end

