-- ==== Sys2Proof/Machine/HostActions.lean ====
section
/-! DEFINITION. What can happen to one instance, and runs of such events: the host offers a word, the core completes a command,
the host resets the core (R25, R230, R241, R244). The model is transaction-level, with no time and no signals (R232, R242, log 8). -/

namespace Sys2Proof.Machine

/-- One event at one instance. -/
inductive Action where
  /-- The host offers a command word at the port (R25, R241). -/
  | accept (w : Word)
  /-- The core completes its oldest pending command (R25). -/
  | complete
  /-- The host resets the core (R230). -/
  | reset
deriving DecidableEq, Repr

/-- The state after one event. A step has no outcome but a next state (R210), so the two other branches are never taken. -/
def act (a : Action) (s : State) : State :=
  match a with
  | .accept w => accept w s
  | .complete =>
    match step s with
    | .next t => t
    | .fault _ => s
    | .refused _ => s
  | .reset => resetCore s

/-- The state after a sequence of events. -/
def runActions : List Action → State → State
  | [], s => s
  | a :: as, s => runActions as (act a s)

/-- The command words a sequence of events makes the core accept, in order: the ones offered when the port could take them. -/
def acceptedWords : List Action → State → List Word
  | [], _ => []
  | a :: as, s =>
    match a with
    | .accept w => if canAccept s then w :: acceptedWords as (act a s) else acceptedWords as (act a s)
    | .complete => acceptedWords as (act a s)
    | .reset => acceptedWords as (act a s)

/-- A message as the host issues it: one ENC a symbol, in order, "not a command" of its own (R3, R177). -/
def encryptMessage (k1 k2 : BitVec 8) (message : List (BitVec 8)) : List Word :=
  message.map fun m => encode (.enc 0 (m.setWidth 10) k1 k2)

/-- The same for decryption: one DEC a symbol (R177). -/
def decryptMessage (k1 k2 : BitVec 8) (message : List (BitVec 8)) : List Word :=
  message.map fun m => encode (.dec 0 (m.setWidth 10) k1 k2)

end Sys2Proof.Machine
end

