-- ==== Sys2Proof/Machine/Instances.lean ====
section
/-! DEFINITION. Several instances (R10, R222): separate cores, each with its own port and queue, and nothing shared. -/

namespace Sys2Proof.Machine

/-- The instances of a system. They "have no identifiers" (R222): a place in the list is the host's way to say which port it uses. -/
structure Instances where
  cores : List State
deriving DecidableEq, Repr

/-- An event at the instance in place `which` (from 0). Reset is an event of one instance too, as every event is (log 7). -/
def actAt (which : Nat) (a : Action) (sys : Instances) : Instances :=
  { cores := sys.cores.modify which (act a) }

/-- `NUM_INSTANCES` instances right after reset. DESIGN CHOICE (log 14): all of them have the same parameters, those of the chip at
hand; the spec (R10, R222) does not say whether the instances of one system agree in SBOX1, SBOX2, UNIT_ACCESS and the bound. -/
def Instances.reset : Instances :=
  { cores := List.replicate Config.numInstances State.reset }

/-- A system after a sequence of events, each at an instance. -/
def runInstances : List (Nat × Action) → Instances → Instances
  | [], sys => sys
  | (which, a) :: rest, sys => runInstances rest (actAt which a sys)

/-- The events of a sequence that are at one instance, in order. -/
def actionsAt (which : Nat) (events : List (Nat × Action)) : List Action :=
  (events.filter fun e => e.1 == which).map Prod.snd

end Sys2Proof.Machine
end

