-- ==== Sys2Proof/Safety.lean ====
section
/-! DEFINITION. What the claims call a sound state and a sound response. -/

namespace Sys2Proof.Machine

/-- A response word as R70, R200 and R211 allow it: a status of the four, zeros in `[27:16]`, RES = 0 unless the status is OK. -/
def responseSound (r : Word) : Bool :=
  decide ((r.extractLsb' 28 4).toNat ≤ 3) && (r.extractLsb' 16 12 == 0) &&
    (r.extractLsb' 28 4 == 0 || r.extractLsb' 0 16 == 0)

/-- The queue is within the chip's bound, where it has one (R25). -/
def withinBound (s : State) : Bool :=
  match s.params.pendingBound with
  | none => true
  | some bound => decide (s.pending.length ≤ bound)

/-- The invariant of a run: every response delivered so far is sound, and the queue is within its bound. -/
def State.Sound (s : State) : Bool :=
  s.responses.all responseSound && withinBound s

/-- The causes of ILLEGAL (R202), (a) to (d) in order, on the bits of a command word; (d) lists the opcodes of R67. -/
def IllegalCommand (p : Parameters) (cmd : Word) : Prop :=
  ((cmd.extractLsb' 28 4).toNat = 0x0 ∨ (cmd.extractLsb' 28 4).toNat = 0xF) ∨
  (0x4 ≤ (cmd.extractLsb' 28 4).toNat ∧ (cmd.extractLsb' 28 4).toNat ≤ 0xE ∧ p.unitAccess = false) ∨
  cmd.extractLsb' 26 2 ≠ 0 ∨
  ((cmd.extractLsb' 28 4).toNat ∈ [0x1, 0x4, 0x5, 0x6, 0x7, 0x8, 0x9, 0xA, 0xB, 0xC, 0xE] ∧ cmd.extractLsb' 8 8 ≠ 0) ∨
  ((cmd.extractLsb' 28 4).toNat ∈ [0x1, 0x4, 0x5, 0x6, 0x7, 0x8, 0x9, 0xB, 0xC, 0xD, 0xE] ∧ cmd.extractLsb' 0 8 ≠ 0)

/-- The field A of a word is too wide for its opcode (R68, R203), on the bits of the word: 256 and more for the 8-bit inputs, 32
and more for ROTL5, 16 and more for the 4-bit inputs; never for the 10-bit ones. -/
def TooWideOperand (cmd : Word) : Prop :=
  ((cmd.extractLsb' 28 4).toNat ∈ [0x2, 0x3, 0x8, 0x9, 0xD, 0xE] ∧ 256 ≤ (cmd.extractLsb' 16 10).toNat) ∨
  ((cmd.extractLsb' 28 4).toNat = 0xA ∧ 32 ≤ (cmd.extractLsb' 16 10).toNat) ∨
  ((cmd.extractLsb' 28 4).toNat ∈ [0x6, 0x7, 0xB, 0xC] ∧ 16 ≤ (cmd.extractLsb' 16 10).toNat)

end Sys2Proof.Machine
end

