-- ==== Sys2Proof/Certificates/Slice0/Obligations.lean ====
section
/-! DEFINITION. The statements for the provers, from the numbered rules of spec/. A response `x.setWidth 32` is the OK response
whose RES is the zero-extended `x`: status 0 and bits 27:16 zero (R70, R71). -/

open Sys2Proof Sys2Proof.Machine

/-- For every word, decode gives the command that the table of R62 assigns to bits 31:28, with RSV, A, B and C read from the bit
positions of R60, whatever those fields hold; the two reserved values of OP decode to no command, by name. (30_encoding.md rules
R60, R61, R62, R65) -/
def Obligations.OpcodeMap : Prop :=
  ∀ w : Word,
    ((w.extractLsb' 28 4).toNat = 0x1 → decode w = .ok (.derive (w.extractLsb' 26 2) (w.extractLsb' 16 10) (w.extractLsb' 8 8) (w.extractLsb' 0 8))) ∧
    ((w.extractLsb' 28 4).toNat = 0x2 → decode w = .ok (.enc (w.extractLsb' 26 2) (w.extractLsb' 16 10) (w.extractLsb' 8 8) (w.extractLsb' 0 8))) ∧
    ((w.extractLsb' 28 4).toNat = 0x3 → decode w = .ok (.dec (w.extractLsb' 26 2) (w.extractLsb' 16 10) (w.extractLsb' 8 8) (w.extractLsb' 0 8))) ∧
    ((w.extractLsb' 28 4).toNat = 0x4 → decode w = .ok (.permP10 (w.extractLsb' 26 2) (w.extractLsb' 16 10) (w.extractLsb' 8 8) (w.extractLsb' 0 8))) ∧
    ((w.extractLsb' 28 4).toNat = 0x5 → decode w = .ok (.permP8 (w.extractLsb' 26 2) (w.extractLsb' 16 10) (w.extractLsb' 8 8) (w.extractLsb' 0 8))) ∧
    ((w.extractLsb' 28 4).toNat = 0x6 → decode w = .ok (.permP4 (w.extractLsb' 26 2) (w.extractLsb' 16 10) (w.extractLsb' 8 8) (w.extractLsb' 0 8))) ∧
    ((w.extractLsb' 28 4).toNat = 0x7 → decode w = .ok (.permEP (w.extractLsb' 26 2) (w.extractLsb' 16 10) (w.extractLsb' 8 8) (w.extractLsb' 0 8))) ∧
    ((w.extractLsb' 28 4).toNat = 0x8 → decode w = .ok (.permIP1 (w.extractLsb' 26 2) (w.extractLsb' 16 10) (w.extractLsb' 8 8) (w.extractLsb' 0 8))) ∧
    ((w.extractLsb' 28 4).toNat = 0x9 → decode w = .ok (.permIP2 (w.extractLsb' 26 2) (w.extractLsb' 16 10) (w.extractLsb' 8 8) (w.extractLsb' 0 8))) ∧
    ((w.extractLsb' 28 4).toNat = 0xA → decode w = .ok (.rotl5 (w.extractLsb' 26 2) (w.extractLsb' 16 10) (w.extractLsb' 8 8) (w.extractLsb' 0 8))) ∧
    ((w.extractLsb' 28 4).toNat = 0xB → decode w = .ok (.sbox1 (w.extractLsb' 26 2) (w.extractLsb' 16 10) (w.extractLsb' 8 8) (w.extractLsb' 0 8))) ∧
    ((w.extractLsb' 28 4).toNat = 0xC → decode w = .ok (.sbox2 (w.extractLsb' 26 2) (w.extractLsb' 16 10) (w.extractLsb' 8 8) (w.extractLsb' 0 8))) ∧
    ((w.extractLsb' 28 4).toNat = 0xD → decode w = .ok (.round (w.extractLsb' 26 2) (w.extractLsb' 16 10) (w.extractLsb' 8 8) (w.extractLsb' 0 8))) ∧
    ((w.extractLsb' 28 4).toNat = 0xE → decode w = .ok (.swap (w.extractLsb' 26 2) (w.extractLsb' 16 10) (w.extractLsb' 8 8) (w.extractLsb' 0 8))) ∧
    ((w.extractLsb' 28 4).toNat = 0x0 ∨ (w.extractLsb' 28 4).toNat = 0xF → decode w = .error (.reservedOpcode (w.extractLsb' 28 4)))

/-- For every command of all 14 families, with every value of every field (well formed or not), decode (encode i) is i: no bit
of an encoding is dropped. (30_encoding.md section 1; 30_encoding.md section 2) -/
def Obligations.DecodeOfEncode : Prop :=
  ∀ i : Instr, decode (encode i) = .ok i

/-- For every word w and command i, if decode w gives i then encode i is w: each word has one meaning and no bit of it is
ignored. (30_encoding.md section 1; 30_encoding.md section 2) -/
def Obligations.EncodeOfDecode : Prop :=
  ∀ (w : Word) (i : Instr), decode w = .ok i → encode i = w

/-- Every command's opcode has a row in spec/opcode_table.json, and a word matches a row (w and mask = match) exactly when it
decodes to a well-formed command of that row's opcode. (30_encoding.md, opening paragraph on opcode_table.json) -/
def Obligations.TableRowsSelectWellFormed : Prop :=
  (∀ i : Instr, ∃ r ∈ opcodeTable, r.opcode = i.opcode) ∧
  (∀ r ∈ opcodeTable, ∀ w : Word,
    rowMatches r w = true ↔ ∃ i, decode w = .ok i ∧ i.opcode = r.opcode ∧ i.WellFormed = true)

/-- Seven words written out in 95_test_vectors.md decode to the commands the spec says they are, one of them with a non-zero RSV
field and one of a reserved opcode. (95_test_vectors.md sections 2.2, 2.5, 2.7 and 3) -/
def Obligations.SampleWordsDecode : Prop :=
  decode 0x129A0000 = .ok (.derive 0 666 0 0) ∧
  decode 0x2061E563 = .ok (.enc 0 97 0xE5 0x63) ∧
  decode 0x3028E563 = .ok (.dec 0 40 0xE5 0x63) ∧
  decode 0xA0190002 = .ok (.rotl5 0 0x19 0 2) ∧
  decode 0xD0A4E500 = .ok (.round 0 0xA4 0xE5 0) ∧
  decode 0x2500E563 = .ok (.enc 1 0x100 0xE5 0x63) ∧
  decode 0xF0000000 = .error (.reservedOpcode 0xF)

/-- For every state whose queue begins with a word that decodes to a command, step is exec of that command at the state without
that word. (10_state.md rule R25; 60_exceptions.md section 2) -/
def Obligations.StepRunsDecodedCommand : Prop :=
  ∀ (s : State) (cmd : Word) (rest : List Word) (i : Instr),
    s.pending = cmd :: rest → decode cmd = .ok i → step s = exec i { s with pending := rest }

/-- For every state whose queue begins with a word with OP = 0x0 or 0xF, whatever its other bits and the parameters, a step
removes it and delivers 0x10000000, and changes nothing else. (30_encoding.md rule R65; 60_exceptions.md rule R202 (a)) -/
def Obligations.StepAnswersReservedOpcode : Prop :=
  ∀ (s : State) (cmd : Word) (rest : List Word),
    s.pending = cmd :: rest → ((cmd.extractLsb' 28 4).toNat = 0x0 ∨ (cmd.extractLsb' 28 4).toNat = 0xF) →
    step s = .next { s with pending := rest, responses := s.responses ++ [0x10000000] }

/-- For every state with an empty queue, step answers the same state: there is nothing to complete. The spec describes no such
step; that the model's machine waits is its own choice, log 4. (10_state.md rule R25) -/
def Obligations.EmptyQueueStepWaits : Prop :=
  ∀ s : State, s.pending = [] → step s = .next s

/-- For every state and every word that decodes to a command, the step from withFetchWord of that word is exec of that command
at the state before. Placing a word at the head of the queue is the model's convention, log 5. (10_state.md rule R25) -/
def Obligations.FetchWordRunsNext : Prop :=
  ∀ (s : State) (w : Word) (i : Instr), decode w = .ok i → step (s.withFetchWord 32 w.toNat) = exec i s

/-- The table P10 is the source's, for every 10-bit value each output bit is the input bit R108's wiring names, and every input
position appears exactly once in the table. (R108) -/
def Obligations.PermutationP10 : Prop :=
  tableP10.toList = [3, 5, 2, 7, 4, 10, 1, 9, 8, 6] ∧
  (∀ v : BitVec 10,
    (perm tableP10 v).getLsbD 9 = v.getLsbD 7 ∧
    (perm tableP10 v).getLsbD 8 = v.getLsbD 5 ∧
    (perm tableP10 v).getLsbD 7 = v.getLsbD 8 ∧
    (perm tableP10 v).getLsbD 6 = v.getLsbD 3 ∧
    (perm tableP10 v).getLsbD 5 = v.getLsbD 6 ∧
    (perm tableP10 v).getLsbD 4 = v.getLsbD 0 ∧
    (perm tableP10 v).getLsbD 3 = v.getLsbD 9 ∧
    (perm tableP10 v).getLsbD 2 = v.getLsbD 1 ∧
    (perm tableP10 v).getLsbD 1 = v.getLsbD 2 ∧
    (perm tableP10 v).getLsbD 0 = v.getLsbD 4) ∧
  (∀ p : Nat, 1 ≤ p → p ≤ 10 → tableP10.toList.count p = 1)

/-- The table P8 is the source's, for every 10-bit value each output bit is the input bit R109's wiring names, and two inputs
that differ at most in bits 9 and 8 give the same output. (R109) -/
def Obligations.PermutationP8 : Prop :=
  tableP8.toList = [6, 3, 7, 4, 8, 5, 10, 9] ∧
  (∀ v : BitVec 10,
    (perm tableP8 v).getLsbD 7 = v.getLsbD 4 ∧
    (perm tableP8 v).getLsbD 6 = v.getLsbD 7 ∧
    (perm tableP8 v).getLsbD 5 = v.getLsbD 3 ∧
    (perm tableP8 v).getLsbD 4 = v.getLsbD 6 ∧
    (perm tableP8 v).getLsbD 3 = v.getLsbD 2 ∧
    (perm tableP8 v).getLsbD 2 = v.getLsbD 5 ∧
    (perm tableP8 v).getLsbD 1 = v.getLsbD 0 ∧
    (perm tableP8 v).getLsbD 0 = v.getLsbD 1) ∧
  (∀ u v : BitVec 10, u.extractLsb' 0 8 = v.extractLsb' 0 8 → perm tableP8 u = perm tableP8 v)

/-- The table P4 is the source's, for every 4-bit value each output bit is the input bit R110's wiring names, and the sequence
a, b, c, d goes to b, d, c, a. (R110) -/
def Obligations.PermutationP4 : Prop :=
  tableP4.toList = [2, 4, 3, 1] ∧
  (∀ v : BitVec 4,
    (perm tableP4 v).getLsbD 3 = v.getLsbD 2 ∧
    (perm tableP4 v).getLsbD 2 = v.getLsbD 0 ∧
    (perm tableP4 v).getLsbD 1 = v.getLsbD 1 ∧
    (perm tableP4 v).getLsbD 0 = v.getLsbD 3) ∧
  (∀ a b c d : BitVec 1, perm tableP4 (a ++ b ++ c ++ d) = b ++ d ++ c ++ a)

/-- The table EP is the source's, for every 4-bit value each output bit is the input bit R111's wiring names, and every one of
the four input positions appears exactly twice in the table. (R111) -/
def Obligations.ExpansionEP : Prop :=
  tableEP.toList = [4, 1, 2, 3, 2, 3, 4, 1] ∧
  (∀ v : BitVec 4,
    (perm tableEP v).getLsbD 7 = v.getLsbD 0 ∧
    (perm tableEP v).getLsbD 6 = v.getLsbD 3 ∧
    (perm tableEP v).getLsbD 5 = v.getLsbD 2 ∧
    (perm tableEP v).getLsbD 4 = v.getLsbD 1 ∧
    (perm tableEP v).getLsbD 3 = v.getLsbD 2 ∧
    (perm tableEP v).getLsbD 2 = v.getLsbD 1 ∧
    (perm tableEP v).getLsbD 1 = v.getLsbD 0 ∧
    (perm tableEP v).getLsbD 0 = v.getLsbD 3) ∧
  (∀ p : Nat, 1 ≤ p → p ≤ 4 → tableEP.toList.count p = 2)

/-- The table IP1 is the source's, and for every 8-bit value each output bit is the input bit R112's wiring names. (R112) -/
def Obligations.PermutationIP1 : Prop :=
  tableIP1.toList = [2, 6, 3, 1, 4, 8, 5, 7] ∧
  (∀ v : BitVec 8,
    (perm tableIP1 v).getLsbD 7 = v.getLsbD 6 ∧
    (perm tableIP1 v).getLsbD 6 = v.getLsbD 2 ∧
    (perm tableIP1 v).getLsbD 5 = v.getLsbD 5 ∧
    (perm tableIP1 v).getLsbD 4 = v.getLsbD 7 ∧
    (perm tableIP1 v).getLsbD 3 = v.getLsbD 4 ∧
    (perm tableIP1 v).getLsbD 2 = v.getLsbD 0 ∧
    (perm tableIP1 v).getLsbD 1 = v.getLsbD 3 ∧
    (perm tableIP1 v).getLsbD 0 = v.getLsbD 1)

/-- The table IP2 is the source's, for every 8-bit value each output bit is the input bit R113's wiring names, and IP1 and IP2
undo each other on every value. (R113) -/
def Obligations.PermutationIP2 : Prop :=
  tableIP2.toList = [4, 1, 3, 5, 7, 2, 8, 6] ∧
  (∀ v : BitVec 8,
    (perm tableIP2 v).getLsbD 7 = v.getLsbD 4 ∧
    (perm tableIP2 v).getLsbD 6 = v.getLsbD 7 ∧
    (perm tableIP2 v).getLsbD 5 = v.getLsbD 5 ∧
    (perm tableIP2 v).getLsbD 4 = v.getLsbD 3 ∧
    (perm tableIP2 v).getLsbD 3 = v.getLsbD 1 ∧
    (perm tableIP2 v).getLsbD 2 = v.getLsbD 6 ∧
    (perm tableIP2 v).getLsbD 1 = v.getLsbD 0 ∧
    (perm tableIP2 v).getLsbD 0 = v.getLsbD 2) ∧
  (∀ v : BitVec 8, perm tableIP2 (perm tableIP1 v) = v ∧ perm tableIP1 (perm tableIP2 v) = v)

/-- For every 5-bit value and every amount n, bit i of the value is bit (i + n) mod 5 of the rotated value, the amount counts
modulo 5, and a rotation by 1 takes the first bit to the last place. (R103) -/
def Obligations.LeftRotationModuloFive : Prop :=
  (∀ (h : BitVec 5) (n i : Nat), i < 5 → (rotl5 h n).getLsbD ((i + n) % 5) = h.getLsbD i) ∧
  (∀ (h : BitVec 5) (n : Nat), rotl5 h n = rotl5 h (n % 5)) ∧
  (∀ h : BitVec 5, rotl5 h 1 = h.extractLsb' 0 4 ++ h.extractLsb' 4 1)

/-- For every 4 by 4 table of 2-bit values, each of the 16 inputs x reads the entry of row x[3] ++ x[0] and column x[2] ++ x[1].
(R106) -/
def Obligations.SboxLookupSelectors : Prop :=
  ∀ a b c d e f g h i j k l m n o p : BitVec 2,
    let S : SBoxTable := ⟨⟨a, b, c, d⟩, ⟨e, f, g, h⟩, ⟨i, j, k, l⟩, ⟨m, n, o, p⟩⟩
    sbox S 0b0000 = a ∧ sbox S 0b0010 = b ∧ sbox S 0b0100 = c ∧ sbox S 0b0110 = d ∧
    sbox S 0b0001 = e ∧ sbox S 0b0011 = f ∧ sbox S 0b0101 = g ∧ sbox S 0b0111 = h ∧
    sbox S 0b1000 = i ∧ sbox S 0b1010 = j ∧ sbox S 0b1100 = k ∧ sbox S 0b1110 = l ∧
    sbox S 0b1001 = m ∧ sbox S 0b1011 = n ∧ sbox S 0b1101 = o ∧ sbox S 0b1111 = p

/-- For every 10-bit master key, K1 and K2 are the key bits that R143 lists; key bits 5 and 8 do not reach K1, 3 and 6 do not
reach K2; and the schedule of the exclusive-or of two keys is the exclusive-or of their schedules. (R143) -/
def Obligations.KeyScheduleDirectForm : Prop :=
  (∀ key : BitVec 10,
    (keySched key).1 = key.extractLsb' 9 1 ++ key.extractLsb' 3 1 ++ key.extractLsb' 1 1 ++ key.extractLsb' 6 1 ++
      key.extractLsb' 2 1 ++ key.extractLsb' 7 1 ++ key.extractLsb' 0 1 ++ key.extractLsb' 4 1 ∧
    (keySched key).2 = key.extractLsb' 2 1 ++ key.extractLsb' 7 1 ++ key.extractLsb' 4 1 ++ key.extractLsb' 5 1 ++
      key.extractLsb' 0 1 ++ key.extractLsb' 8 1 ++ key.extractLsb' 1 1 ++ key.extractLsb' 9 1) ∧
  (∀ a b : BitVec 10, (∀ i, i ≠ 5 → i ≠ 8 → a.getLsbD i = b.getLsbD i) → (keySched a).1 = (keySched b).1) ∧
  (∀ a b : BitVec 10, (∀ i, i ≠ 3 → i ≠ 6 → a.getLsbD i = b.getLsbD i) → (keySched a).2 = (keySched b).2) ∧
  (∀ a b : BitVec 10, (keySched (a ^^^ b)).1 = (keySched a).1 ^^^ (keySched b).1 ∧
    (keySched (a ^^^ b)).2 = (keySched a).2 ^^^ (keySched b).2)

/-- For all contents of both S-boxes, every block and every subkey: the round applied twice with the same subkey gives the block
back, and its low 4 bits are the block's. (R152) -/
def Obligations.FeistelRoundLaws : Prop :=
  ∀ (S1 S2 : SBoxTable) (v k : BitVec 8),
    feistelRound S1 S2 (feistelRound S1 S2 v k) k = v ∧
    (feistelRound S1 S2 v k).extractLsb' 0 4 = v.extractLsb' 0 4

/-- For every 8-bit value, the half-swap is v[3:0] ++ v[7:4], and applied twice it is the identity. (R153) -/
def Obligations.HalfSwapExchangesHalves : Prop :=
  ∀ v : BitVec 8, halfSwap v = v.extractLsb' 0 4 ++ v.extractLsb' 4 4 ∧ halfSwap (halfSwap v) = v

/-- For all contents of both S-boxes, every code and every pair of 8-bit subkeys, and so for the subkeys of every master key,
Decrypt(Encrypt(c, K1, K2), K1, K2) = c. (R174) -/
def Obligations.DecryptUndoesEncrypt : Prop :=
  (∀ (S1 S2 : SBoxTable) (c k1 k2 : BitVec 8), decrypt S1 S2 (encrypt S1 S2 c k1 k2) k1 k2 = c) ∧
  (∀ (S1 S2 : SBoxTable) (key : BitVec 10) (c : BitVec 8),
    decrypt S1 S2 (encrypt S1 S2 c (keySched key).1 (keySched key).2) (keySched key).1 (keySched key).2 = c)

/-- For all contents of both S-boxes and any two subkeys, encryption is one to one and onto on the 8-bit codes, and decryption
with the same subkeys is its inverse from both sides. (R175) -/
def Obligations.EncryptIsBijective : Prop :=
  ∀ (S1 S2 : SBoxTable) (k1 k2 : BitVec 8),
    Function.Bijective (fun c => encrypt S1 S2 c k1 k2) ∧
    Function.LeftInverse (fun c => decrypt S1 S2 c k1 k2) (fun c => encrypt S1 S2 c k1 k2) ∧
    Function.RightInverse (fun c => decrypt S1 S2 c k1 k2) (fun c => encrypt S1 S2 c k1 k2)

/-- For all S-boxes and codes, if K1 = K2 then encryption and decryption give the same code and encrypting twice gives the code
back; master keys 0 and 1023 have equal subkeys. (R176) -/
def Obligations.EqualSubkeysInvolution : Prop :=
  (∀ (S1 S2 : SBoxTable) (c k1 k2 : BitVec 8), k1 = k2 →
    encrypt S1 S2 c k1 k2 = decrypt S1 S2 c k1 k2 ∧ encrypt S1 S2 (encrypt S1 S2 c k1 k2) k1 k2 = c) ∧
  (keySched 0).1 = (keySched 0).2 ∧ (keySched 1023).1 = (keySched 1023).2

/-- For every state and 10-bit key, whatever UNIT_ACCESS is, DERIVE with RSV = B = C = 0 delivers K1 in rsp[15:8] and K2 in
rsp[7:0] with status OK. Its next state is the old one with that one response more: queue and parameters are unchanged. A non-
zero reserved or must-be-zero field gives 0x10000000. The rule's encoding, corner cases and example are stated too. (R142) -/
def Obligations.DeriveCommand : Prop :=
  (∀ (rsv : BitVec 2) (key : BitVec 10) (b c : BitVec 8), encode (.derive rsv key b c) = wordOf 0x1 ⟨rsv, key, b, c⟩) ∧
  (∀ (s : State) (key : BitVec 10), 
    exec (.derive 0 key 0 0) s
      = .next { s with responses := s.responses ++ [((keySched key).1 ++ (keySched key).2).setWidth 32] }) ∧
  (∀ (s : State) (rsv : BitVec 2) (key : BitVec 10) (b c : BitVec 8), (rsv ≠ 0 ∨ b ≠ 0 ∨ c ≠ 0) →
    exec (.derive rsv key b c) s
      = .next { s with responses := s.responses ++ [0x10000000] }) ∧
  keySched 0 = (0, 0) ∧ keySched 1023 = (0xFF, 0xFF) ∧
  (∀ (S1 S2 : SBoxTable) (key : BitVec 10) (code : BitVec 8), (key = 0 ∨ key = 1023) →
    encrypt S1 S2 code (keySched key).1 (keySched key).2 = decrypt S1 S2 code (keySched key).1 (keySched key).2) ∧
  wordOf 0x1 ⟨0, 666, 0, 0⟩ = 0x129A0000 ∧ keySched 666 = (0xE5, 0x63)

/-- For every state, 8-bit code and any K1, K2, whatever UNIT_ACCESS is, ENC delivers Encrypt(code, K1, K2) with status OK. Its
next state is the old one with that one response more: queue and parameters are unchanged. A non-zero reserved or must-be-zero
field gives 0x10000000, and otherwise a code of 256 or more gives 0x30000000. The rule's encoding, corner cases and example are
stated too. (R172) -/
def Obligations.EncCommand : Prop :=
  (∀ (rsv : BitVec 2) (code : BitVec 10) (k1 k2 : BitVec 8), encode (.enc rsv code k1 k2) = wordOf 0x2 ⟨rsv, code, k1, k2⟩) ∧
  (∀ (s : State) (code : BitVec 8) (k1 : BitVec 8) (k2 : BitVec 8), 
    exec (.enc 0 (code.setWidth 10) k1 k2) s
      = .next { s with responses := s.responses ++ [(encrypt s.params.sbox1 s.params.sbox2 code k1 k2).setWidth 32] }) ∧
  (∀ (s : State) (rsv : BitVec 2) (code : BitVec 10) (k1 k2 : BitVec 8), (rsv ≠ 0) →
    exec (.enc rsv code k1 k2) s
      = .next { s with responses := s.responses ++ [0x10000000] }) ∧
  (∀ (s : State) (code : BitVec 10) (k1 : BitVec 8) (k2 : BitVec 8), 256 ≤ code.toNat →
    exec (.enc 0 code k1 k2) s
      = .next { s with responses := s.responses ++ [0x30000000] }) ∧
  (∀ (S1 S2 : SBoxTable) (code k : BitVec 8), encrypt S1 S2 code k k = decrypt S1 S2 code k k) ∧
  (∃ (S1 S2 : SBoxTable) (key : BitVec 10) (code : BitVec 8), encrypt S1 S2 code (keySched key).1 (keySched key).2 = code) ∧
  wordOf 0x2 ⟨0, 97, 0xE5, 0x63⟩ = 0x2061E563 ∧ encrypt referenceSbox1 referenceSbox2 97 0xE5 0x63 = 0x28

/-- For every state, 8-bit code and any K1 (in B), K2 (in C), whatever UNIT_ACCESS is, DEC delivers Decrypt(code, K1, K2) =
Encrypt(code, K2, K1) with status OK. Its next state is the old one with that one response more: queue and parameters are
unchanged. A non-zero reserved or must-be-zero field gives 0x10000000, and otherwise a code of 256 or more gives 0x30000000. The
rule's encoding, corner cases and example are stated too. (R173) -/
def Obligations.DecCommand : Prop :=
  (∀ (rsv : BitVec 2) (code : BitVec 10) (k1 k2 : BitVec 8), encode (.dec rsv code k1 k2) = wordOf 0x3 ⟨rsv, code, k1, k2⟩) ∧
  (∀ (s : State) (code : BitVec 8) (k1 : BitVec 8) (k2 : BitVec 8), 
    exec (.dec 0 (code.setWidth 10) k1 k2) s
      = .next { s with responses := s.responses ++ [(encrypt s.params.sbox1 s.params.sbox2 code k2 k1).setWidth 32] }) ∧
  (∀ (s : State) (rsv : BitVec 2) (code : BitVec 10) (k1 k2 : BitVec 8), (rsv ≠ 0) →
    exec (.dec rsv code k1 k2) s
      = .next { s with responses := s.responses ++ [0x10000000] }) ∧
  (∀ (s : State) (code : BitVec 10) (k1 : BitVec 8) (k2 : BitVec 8), 256 ≤ code.toNat →
    exec (.dec 0 code k1 k2) s
      = .next { s with responses := s.responses ++ [0x30000000] }) ∧
  (∀ (s : State) (code : BitVec 8) (k1 k2 : BitVec 8),
    exec (.dec 0 (code.setWidth 10) k2 k1) s = exec (.enc 0 (code.setWidth 10) k1 k2) s) ∧
  (∀ (S1 S2 : SBoxTable) (code k1 k2 : BitVec 8), decrypt S1 S2 code k1 k2 = encrypt S1 S2 code k2 k1) ∧
  wordOf 0x3 ⟨0, 40, 0xE5, 0x63⟩ = 0x3028E563 ∧ decrypt referenceSbox1 referenceSbox2 40 0xE5 0x63 = 0x61

/-- For every state with UNIT_ACCESS = true and every 10-bit input, PERM.P10 with RSV = B = C = 0 delivers the permutation with
status OK. Its next state is the old one with that one response more: queue and parameters are unchanged. A non-zero reserved or
must-be-zero field or UNIT_ACCESS = false gives 0x10000000. The rule's encoding, corner cases and example are stated too. (R120)
-/
def Obligations.PermP10Command : Prop :=
  (∀ (rsv : BitVec 2) (v : BitVec 10) (b c : BitVec 8), encode (.permP10 rsv v b c) = wordOf 0x4 ⟨rsv, v, b, c⟩) ∧
  (∀ (s : State) (v : BitVec 10), s.params.unitAccess = true → 
    exec (.permP10 0 v 0 0) s
      = .next { s with responses := s.responses ++ [(perm tableP10 v).setWidth 32] }) ∧
  (∀ (s : State) (rsv : BitVec 2) (v : BitVec 10) (b c : BitVec 8), (s.params.unitAccess = false ∨ rsv ≠ 0 ∨ b ≠ 0 ∨ c ≠ 0) →
    exec (.permP10 rsv v b c) s
      = .next { s with responses := s.responses ++ [0x10000000] }) ∧
  perm tableP10 0 = 0 ∧ perm tableP10 0x3FF = 0x3FF ∧
  Function.Bijective (fun v : BitVec 10 => perm tableP10 v) ∧
  wordOf 0x4 ⟨0, 666, 0, 0⟩ = 0x429A0000 ∧ perm tableP10 666 = 0x24D

/-- For every state with UNIT_ACCESS = true and every 10-bit input, PERM.P8 with RSV = B = C = 0 delivers the permutation with
status OK. Its next state is the old one with that one response more: queue and parameters are unchanged. A non-zero reserved or
must-be-zero field or UNIT_ACCESS = false gives 0x10000000. The rule's encoding, corner cases and example are stated too. (R121)
-/
def Obligations.PermP8Command : Prop :=
  (∀ (rsv : BitVec 2) (v : BitVec 10) (b c : BitVec 8), encode (.permP8 rsv v b c) = wordOf 0x5 ⟨rsv, v, b, c⟩) ∧
  (∀ (s : State) (v : BitVec 10), s.params.unitAccess = true → 
    exec (.permP8 0 v 0 0) s
      = .next { s with responses := s.responses ++ [(perm tableP8 v).setWidth 32] }) ∧
  (∀ (s : State) (rsv : BitVec 2) (v : BitVec 10) (b c : BitVec 8), (s.params.unitAccess = false ∨ rsv ≠ 0 ∨ b ≠ 0 ∨ c ≠ 0) →
    exec (.permP8 rsv v b c) s
      = .next { s with responses := s.responses ++ [0x10000000] }) ∧
  (∀ u v : BitVec 10, u.extractLsb' 0 8 = v.extractLsb' 0 8 → perm tableP8 u = perm tableP8 v) ∧
  perm tableP8 0x100 = 0 ∧ perm tableP8 0x200 = 0 ∧ perm tableP8 0x3FF = 0xFF ∧
  wordOf 0x5 ⟨0, 0x0BA, 0, 0⟩ = 0x50BA0000 ∧ perm tableP8 0x0BA = 0xE5 ∧ (keySched 666).1 = 0xE5

/-- For every state with UNIT_ACCESS = true and every 4-bit input, PERM.P4 with RSV = B = C = 0 delivers the permutation with
status OK. Its next state is the old one with that one response more: queue and parameters are unchanged. A non-zero reserved or
must-be-zero field or UNIT_ACCESS = false gives 0x10000000, and otherwise a value in field A too wide for the unit gives
0x20000000. The rule's encoding, corner cases and example are stated too. (R122) -/
def Obligations.PermP4Command : Prop :=
  (∀ (rsv : BitVec 2) (v : BitVec 10) (b c : BitVec 8), encode (.permP4 rsv v b c) = wordOf 0x6 ⟨rsv, v, b, c⟩) ∧
  (∀ (s : State) (v : BitVec 4), s.params.unitAccess = true → 
    exec (.permP4 0 (v.setWidth 10) 0 0) s
      = .next { s with responses := s.responses ++ [(perm tableP4 v).setWidth 32] }) ∧
  (∀ (s : State) (rsv : BitVec 2) (v : BitVec 10) (b c : BitVec 8), (s.params.unitAccess = false ∨ rsv ≠ 0 ∨ b ≠ 0 ∨ c ≠ 0) →
    exec (.permP4 rsv v b c) s
      = .next { s with responses := s.responses ++ [0x10000000] }) ∧
  (∀ (s : State) (v : BitVec 10), s.params.unitAccess = true → 16 ≤ v.toNat →
    exec (.permP4 0 v 0 0) s
      = .next { s with responses := s.responses ++ [0x20000000] }) ∧
  perm tableP4 0 = 0 ∧ perm tableP4 0xF = 0xF ∧
  wordOf 0x6 ⟨0, 0b1010, 0, 0⟩ = 0x600A0000 ∧ perm tableP4 0b1010 = 0b0011

/-- For every state with UNIT_ACCESS = true and every 4-bit input, PERM.EP with RSV = B = C = 0 delivers the permutation with
status OK. Its next state is the old one with that one response more: queue and parameters are unchanged. A non-zero reserved or
must-be-zero field or UNIT_ACCESS = false gives 0x10000000, and otherwise a value in field A too wide for the unit gives
0x20000000. The rule's encoding, corner cases and example are stated too. (R123) -/
def Obligations.PermEPCommand : Prop :=
  (∀ (rsv : BitVec 2) (v : BitVec 10) (b c : BitVec 8), encode (.permEP rsv v b c) = wordOf 0x7 ⟨rsv, v, b, c⟩) ∧
  (∀ (s : State) (v : BitVec 4), s.params.unitAccess = true → 
    exec (.permEP 0 (v.setWidth 10) 0 0) s
      = .next { s with responses := s.responses ++ [(perm tableEP v).setWidth 32] }) ∧
  (∀ (s : State) (rsv : BitVec 2) (v : BitVec 10) (b c : BitVec 8), (s.params.unitAccess = false ∨ rsv ≠ 0 ∨ b ≠ 0 ∨ c ≠ 0) →
    exec (.permEP rsv v b c) s
      = .next { s with responses := s.responses ++ [0x10000000] }) ∧
  (∀ (s : State) (v : BitVec 10), s.params.unitAccess = true → 16 ≤ v.toNat →
    exec (.permEP 0 v 0 0) s
      = .next { s with responses := s.responses ++ [0x20000000] }) ∧
  (∀ v : BitVec 4, ((List.range 8).countP fun i => (perm tableEP v).getLsbD i) = 2 * (List.range 4).countP fun i => v.getLsbD i) ∧
  perm tableEP 0 = 0 ∧ perm tableEP 0xF = 0xFF ∧
  wordOf 0x7 ⟨0, 1, 0, 0⟩ = 0x70010000 ∧ perm tableEP 1 = 0x82

/-- For every state with UNIT_ACCESS = true and every 8-bit input, PERM.IP1 with RSV = B = C = 0 delivers the permutation with
status OK. Its next state is the old one with that one response more: queue and parameters are unchanged. A non-zero reserved or
must-be-zero field or UNIT_ACCESS = false gives 0x10000000, and otherwise a value in field A too wide for the unit gives
0x20000000. The rule's encoding, corner cases and example are stated too. (R124) -/
def Obligations.PermIP1Command : Prop :=
  (∀ (rsv : BitVec 2) (v : BitVec 10) (b c : BitVec 8), encode (.permIP1 rsv v b c) = wordOf 0x8 ⟨rsv, v, b, c⟩) ∧
  (∀ (s : State) (v : BitVec 8), s.params.unitAccess = true → 
    exec (.permIP1 0 (v.setWidth 10) 0 0) s
      = .next { s with responses := s.responses ++ [(perm tableIP1 v).setWidth 32] }) ∧
  (∀ (s : State) (rsv : BitVec 2) (v : BitVec 10) (b c : BitVec 8), (s.params.unitAccess = false ∨ rsv ≠ 0 ∨ b ≠ 0 ∨ c ≠ 0) →
    exec (.permIP1 rsv v b c) s
      = .next { s with responses := s.responses ++ [0x10000000] }) ∧
  (∀ (s : State) (v : BitVec 10), s.params.unitAccess = true → 256 ≤ v.toNat →
    exec (.permIP1 0 v 0 0) s
      = .next { s with responses := s.responses ++ [0x20000000] }) ∧
  perm tableIP1 0 = 0 ∧ perm tableIP1 0xFF = 0xFF ∧
  wordOf 0x8 ⟨0, 97, 0, 0⟩ = 0x80610000 ∧ perm tableIP1 97 = 0xA4

/-- For every state with UNIT_ACCESS = true and every 8-bit input, PERM.IP2 with RSV = B = C = 0 delivers the permutation with
status OK. Its next state is the old one with that one response more: queue and parameters are unchanged. A non-zero reserved or
must-be-zero field or UNIT_ACCESS = false gives 0x10000000, and otherwise a value in field A too wide for the unit gives
0x20000000. The rule's encoding, corner cases and example are stated too. (R125) -/
def Obligations.PermIP2Command : Prop :=
  (∀ (rsv : BitVec 2) (v : BitVec 10) (b c : BitVec 8), encode (.permIP2 rsv v b c) = wordOf 0x9 ⟨rsv, v, b, c⟩) ∧
  (∀ (s : State) (v : BitVec 8), s.params.unitAccess = true → 
    exec (.permIP2 0 (v.setWidth 10) 0 0) s
      = .next { s with responses := s.responses ++ [(perm tableIP2 v).setWidth 32] }) ∧
  (∀ (s : State) (rsv : BitVec 2) (v : BitVec 10) (b c : BitVec 8), (s.params.unitAccess = false ∨ rsv ≠ 0 ∨ b ≠ 0 ∨ c ≠ 0) →
    exec (.permIP2 rsv v b c) s
      = .next { s with responses := s.responses ++ [0x10000000] }) ∧
  (∀ (s : State) (v : BitVec 10), s.params.unitAccess = true → 256 ≤ v.toNat →
    exec (.permIP2 0 v 0 0) s
      = .next { s with responses := s.responses ++ [0x20000000] }) ∧
  (∀ v : BitVec 8, perm tableIP2 (perm tableIP1 v) = v) ∧
  wordOf 0x9 ⟨0, 0xA4, 0, 0⟩ = 0x90A40000 ∧ perm tableIP2 0xA4 = 0x61

/-- For every state with UNIT_ACCESS = true, every 5-bit half and every amount 0 to 255, ROTL5 with RSV = B = 0 delivers the
half rotated left by the amount modulo 5 with status OK. Its next state is the old one with that one response more: queue and
parameters are unchanged. A non-zero reserved or must-be-zero field or UNIT_ACCESS = false gives 0x10000000, and otherwise a
value in field A too wide for the unit gives 0x20000000. The rule's encoding, corner cases and example are stated too. (R126) -/
def Obligations.Rotl5Command : Prop :=
  (∀ (rsv : BitVec 2) (h : BitVec 10) (b n : BitVec 8), encode (.rotl5 rsv h b n) = wordOf 0xA ⟨rsv, h, b, n⟩) ∧
  (∀ (s : State) (h : BitVec 5) (n : BitVec 8), s.params.unitAccess = true → 
    exec (.rotl5 0 (h.setWidth 10) 0 n) s
      = .next { s with responses := s.responses ++ [(rotl5 h n.toNat).setWidth 32] }) ∧
  (∀ (s : State) (rsv : BitVec 2) (h : BitVec 10) (b n : BitVec 8), (s.params.unitAccess = false ∨ rsv ≠ 0 ∨ b ≠ 0) →
    exec (.rotl5 rsv h b n) s
      = .next { s with responses := s.responses ++ [0x10000000] }) ∧
  (∀ (s : State) (h : BitVec 10) (n : BitVec 8), s.params.unitAccess = true → 32 ≤ h.toNat →
    exec (.rotl5 0 h 0 n) s
      = .next { s with responses := s.responses ++ [0x20000000] }) ∧
  (∀ h : BitVec 5, rotl5 h 0 = h ∧ rotl5 h 5 = h ∧ rotl5 h 7 = rotl5 h 2 ∧ rotl5 h 255 = rotl5 h 0) ∧
  (∀ n : Nat, rotl5 0 n = 0 ∧ rotl5 0x1F n = 0x1F) ∧
  wordOf 0xA ⟨0, 0b10010, 0, 1⟩ = 0xA0120001 ∧ rotl5 0b10010 1 = 0b00101

/-- For every state with UNIT_ACCESS = true and every 4-bit input, SBOX1 with RSV = B = C = 0 delivers the lookup in the
parameter SBOX1 with status OK. Its next state is the old one with that one response more: queue and parameters are unchanged. A
non-zero reserved or must-be-zero field or UNIT_ACCESS = false gives 0x10000000, and otherwise a value in field A too wide for
the unit gives 0x20000000. The rule's encoding, corner cases and example are stated too. (R127) -/
def Obligations.Sbox1Command : Prop :=
  (∀ (rsv : BitVec 2) (x : BitVec 10) (b c : BitVec 8), encode (.sbox1 rsv x b c) = wordOf 0xB ⟨rsv, x, b, c⟩) ∧
  (∀ (s : State) (x : BitVec 4), s.params.unitAccess = true → 
    exec (.sbox1 0 (x.setWidth 10) 0 0) s
      = .next { s with responses := s.responses ++ [(sbox s.params.sbox1 x).setWidth 32] }) ∧
  (∀ (s : State) (rsv : BitVec 2) (x : BitVec 10) (b c : BitVec 8), (s.params.unitAccess = false ∨ rsv ≠ 0 ∨ b ≠ 0 ∨ c ≠ 0) →
    exec (.sbox1 rsv x b c) s
      = .next { s with responses := s.responses ++ [0x10000000] }) ∧
  (∀ (s : State) (x : BitVec 10), s.params.unitAccess = true → 16 ≤ x.toNat →
    exec (.sbox1 0 x 0 0) s
      = .next { s with responses := s.responses ++ [0x20000000] }) ∧
  (∀ (S : SBoxTable) (x : BitVec 4), (sbox S x).toNat ≤ 3) ∧
  wordOf 0xB ⟨0, 0, 0, 0⟩ = 0xB0000000 ∧ sbox referenceSbox1 0 = 1

/-- For every state with UNIT_ACCESS = true and every 4-bit input, SBOX2 with RSV = B = C = 0 delivers the lookup in the
parameter SBOX2 with status OK. Its next state is the old one with that one response more: queue and parameters are unchanged. A
non-zero reserved or must-be-zero field or UNIT_ACCESS = false gives 0x10000000, and otherwise a value in field A too wide for
the unit gives 0x20000000. The rule's encoding, corner cases and example are stated too. (R128) -/
def Obligations.Sbox2Command : Prop :=
  (∀ (rsv : BitVec 2) (x : BitVec 10) (b c : BitVec 8), encode (.sbox2 rsv x b c) = wordOf 0xC ⟨rsv, x, b, c⟩) ∧
  (∀ (s : State) (x : BitVec 4), s.params.unitAccess = true → 
    exec (.sbox2 0 (x.setWidth 10) 0 0) s
      = .next { s with responses := s.responses ++ [(sbox s.params.sbox2 x).setWidth 32] }) ∧
  (∀ (s : State) (rsv : BitVec 2) (x : BitVec 10) (b c : BitVec 8), (s.params.unitAccess = false ∨ rsv ≠ 0 ∨ b ≠ 0 ∨ c ≠ 0) →
    exec (.sbox2 rsv x b c) s
      = .next { s with responses := s.responses ++ [0x10000000] }) ∧
  (∀ (s : State) (x : BitVec 10), s.params.unitAccess = true → 16 ≤ x.toNat →
    exec (.sbox2 0 x 0 0) s
      = .next { s with responses := s.responses ++ [0x20000000] }) ∧
  (∀ (S : SBoxTable) (x : BitVec 4), (sbox S x).toNat ≤ 3) ∧
  wordOf 0xC ⟨0, 0b1111, 0, 0⟩ = 0xC00F0000 ∧ sbox referenceSbox2 0b1111 = 3

/-- For every state with UNIT_ACCESS = true, every 8-bit block and subkey, ROUND with RSV = C = 0 delivers the round with status
OK. Its next state is the old one with that one response more: queue and parameters are unchanged. A non-zero reserved or must-
be-zero field or UNIT_ACCESS = false gives 0x10000000, and otherwise a value in field A too wide for the unit gives 0x20000000.
The rule's encoding, corner cases and example are stated too. (R160) -/
def Obligations.RoundCommand : Prop :=
  (∀ (rsv : BitVec 2) (v : BitVec 10) (k c : BitVec 8), encode (.round rsv v k c) = wordOf 0xD ⟨rsv, v, k, c⟩) ∧
  (∀ (s : State) (v : BitVec 8) (k : BitVec 8), s.params.unitAccess = true → 
    exec (.round 0 (v.setWidth 10) k 0) s
      = .next { s with responses := s.responses ++ [(feistelRound s.params.sbox1 s.params.sbox2 v k).setWidth 32] }) ∧
  (∀ (s : State) (rsv : BitVec 2) (v : BitVec 10) (k c : BitVec 8), (s.params.unitAccess = false ∨ rsv ≠ 0 ∨ c ≠ 0) →
    exec (.round rsv v k c) s
      = .next { s with responses := s.responses ++ [0x10000000] }) ∧
  (∀ (s : State) (v : BitVec 10) (k : BitVec 8), s.params.unitAccess = true → 256 ≤ v.toNat →
    exec (.round 0 v k 0) s
      = .next { s with responses := s.responses ++ [0x20000000] }) ∧
  (∀ (S1 S2 : SBoxTable) (v k : BitVec 8), (feistelRound S1 S2 v k).extractLsb' 0 4 = v.extractLsb' 0 4 ∧
    feistelRound S1 S2 (feistelRound S1 S2 v k) k = v) ∧
  (∃ (S1 S2 S1' S2' : SBoxTable) (v : BitVec 8), feistelRound S1 S2 v 0 ≠ feistelRound S1' S2' v 0) ∧
  wordOf 0xD ⟨0, 0xA4, 0xE5, 0⟩ = 0xD0A4E500 ∧ feistelRound referenceSbox1 referenceSbox2 0xA4 0xE5 = 0x24

/-- For every state with UNIT_ACCESS = true and every 8-bit block, SWAP with RSV = B = C = 0 delivers the block with its halves
exchanged with status OK. Its next state is the old one with that one response more: queue and parameters are unchanged. A non-
zero reserved or must-be-zero field or UNIT_ACCESS = false gives 0x10000000, and otherwise a value in field A too wide for the
unit gives 0x20000000. The rule's encoding, corner cases and example are stated too. (R161) -/
def Obligations.SwapCommand : Prop :=
  (∀ (rsv : BitVec 2) (v : BitVec 10) (b c : BitVec 8), encode (.swap rsv v b c) = wordOf 0xE ⟨rsv, v, b, c⟩) ∧
  (∀ (s : State) (v : BitVec 8), s.params.unitAccess = true → 
    exec (.swap 0 (v.setWidth 10) 0 0) s
      = .next { s with responses := s.responses ++ [(halfSwap v).setWidth 32] }) ∧
  (∀ (s : State) (rsv : BitVec 2) (v : BitVec 10) (b c : BitVec 8), (s.params.unitAccess = false ∨ rsv ≠ 0 ∨ b ≠ 0 ∨ c ≠ 0) →
    exec (.swap rsv v b c) s
      = .next { s with responses := s.responses ++ [0x10000000] }) ∧
  (∀ (s : State) (v : BitVec 10), s.params.unitAccess = true → 256 ≤ v.toNat →
    exec (.swap 0 v 0 0) s
      = .next { s with responses := s.responses ++ [0x20000000] }) ∧
  (∀ h : BitVec 4, halfSwap (h ++ h) = h ++ h) ∧ halfSwap 0 = 0 ∧ halfSwap 0xFF = 0xFF ∧
  (∀ v : BitVec 8, halfSwap (halfSwap v) = v) ∧
  wordOf 0xE ⟨0, 0x24, 0, 0⟩ = 0xE0240000 ∧ halfSwap 0x24 = 0x42

/-- For every state with a pending command: the step delivers 0x10000000, and changes nothing else besides removing the command,
exactly when R202 (a), (b), (c) or (d) holds of the command word and UNIT_ACCESS. (R202) -/
def Obligations.IllegalCausesAnsweredIllegal : Prop :=
  ∀ (s : State) (cmd : Word) (rest : List Word), s.pending = cmd :: rest →
    (IllegalCommand s.params cmd ↔
      step s = .next { s with pending := rest, responses := s.responses ++ [0x10000000] })

/-- For every state whose pending command passes R202 and has a value in field A of 2^wA or more: ENC and DEC deliver
0x30000000, the nine unit commands with a narrower input 0x20000000, and nothing else changes besides the removal of the
command; DERIVE, PERM.P10 and PERM.P8 cannot have such a value. (R203) -/
def Obligations.WidthErrorsNeverTruncate : Prop :=
  (∀ (s : State) (cmd : Word) (rest : List Word), s.pending = cmd :: rest → ¬ IllegalCommand s.params cmd → TooWideOperand cmd →
    ((cmd.extractLsb' 28 4).toNat ∈ [0x2, 0x3] →
      step s = .next { s with pending := rest, responses := s.responses ++ [0x30000000] }) ∧
    ((cmd.extractLsb' 28 4).toNat ∈ [0x6, 0x7, 0x8, 0x9, 0xA, 0xB, 0xC, 0xD, 0xE] →
      step s = .next { s with pending := rest, responses := s.responses ++ [0x20000000] })) ∧
  (∀ cmd : Word, (cmd.extractLsb' 28 4).toNat ∈ [0x1, 0x4, 0x5] → ¬ TooWideOperand cmd ∧ (cmd.extractLsb' 16 10).toNat < 2 ^ 10)

/-- For every state with a pending command the step delivers one response: 0x10000000 where any ILLEGAL cause holds, else
0x30000000 or 0x20000000 where the operand is too wide, else a response with status OK; the two example words of R204 get RANGE
and ILLEGAL. (R204) -/
def Obligations.OneStatusByPriority : Prop :=
  (∀ (s : State) (cmd : Word) (rest : List Word), s.pending = cmd :: rest →
    ∃ r : Word, step s = .next { s with pending := rest, responses := s.responses ++ [r] } ∧
      (IllegalCommand s.params cmd → r = 0x10000000) ∧
      (¬ IllegalCommand s.params cmd → TooWideOperand cmd →
        r = if (cmd.extractLsb' 28 4).toNat ∈ [0x2, 0x3] then 0x30000000 else 0x20000000) ∧
      (¬ IllegalCommand s.params cmd → ¬ TooWideOperand cmd → r.extractLsb' 16 16 = 0)) ∧
  (∀ (s : State) (rest : List Word),
    (s.pending = 0x2100E501 :: rest → step s = .next { s with pending := rest, responses := s.responses ++ [0x30000000] }) ∧
    (s.pending = 0x2500E501 :: rest → step s = .next { s with pending := rest, responses := s.responses ++ [0x10000000] }))

/-- For every state with a pending command, of all 2^32 words, the step (decode, dispatch and the command's meaning) removes the
word and delivers exactly one response, Exec of the word as R69, R70, R71 and R210 write it on the word's bits; nothing else
changes. (R210) -/
def Obligations.StepDeliversExec : Prop :=
  ∀ (s : State) (cmd : Word) (rest : List Word), s.pending = cmd :: rest →
    step s = .next { s with pending := rest, responses := s.responses ++ [execWord s.params cmd] }

/-- From every state, reachable or not, any number of steps of the machine gives a next state: no fault, no refusal, no hang.
That a step with nothing pending answers a next state, and changes nothing, is the model's choice, log 4; that no word and no
state stops the machine is read from R210 and R213 by inference, log 10. (60_exceptions.md section 2; 60_exceptions.md
section 3) -/
def Obligations.RunNeverStops : Prop :=
  ∀ (n : Nat) (s : State), ∃ t : State, Host.Core.run Sys2Proof.core n s = .next t

/-- From every state in which each delivered response has one of the four statuses, zeros in bits 27:16 and RES = 0 unless OK,
and the queue is within the chip's bound, the state after a step is such a state. (30_encoding.md section 3; 60_exceptions.md
section 1; 10_state.md rule R25) -/
def Obligations.StepKeepsSoundness : Prop :=
  ∀ s t : State, s.Sound = true → step s = .next t → t.Sound = true

/-- Right after reset nothing is pending (R28), and the invariant of the steps holds. That no response is recorded yet is the
model's choice, log 1. (10_state.md section 3) -/
def Obligations.ResetIsSound : Prop :=
  State.reset.Sound = true ∧ State.reset.pending = [] ∧ State.reset.responses = []

/-- From every sound state, any sequence of host offers, completions and resets ends in a sound state: statuses 4 to 15 are
never produced and an accepted word never exceeds the bound. The bound as a parameter is the model's choice, log 3.
(60_exceptions.md section 1; 10_state.md rule R25) -/
def Obligations.HostActionsKeepSoundness : Prop :=
  ∀ (as : List Action) (s : State), s.Sound = true → (runActions as s).Sound = true

/-- Along every sequence of events from every state, and at every step, the tables and the other parameters stay as they are.
That the model carries them in its state is its choice, log 2. (10_state.md rule R22; 10_state.md section 3) -/
def Obligations.ParametersNeverChange : Prop :=
  (∀ (as : List Action) (s : State), (runActions as s).params = s.params) ∧
  (∀ s t : State, step s = .next t → t.params = s.params)

/-- With no bound, and below the bound, accepting a command appends its word and changes nothing else; at the bound the word is
not accepted and nothing changes. The behaviour at the bound is the model's choice, log 3. (10_state.md rule R25; 20_memory.md
rule R48; 70_reset_and_hazards.md rule R241) -/
def Obligations.AcceptAppendsWholeOrNot : Prop :=
  (∀ (s : State) (w : Word), s.params.pendingBound = none → act (.accept w) s = { s with pending := s.pending ++ [w] }) ∧
  (∀ (s : State) (w : Word) (n : Nat), s.params.pendingBound = some n → s.pending.length < n →
    act (.accept w) s = { s with pending := s.pending ++ [w] }) ∧
  (∀ (s : State) (w : Word) (n : Nat), s.params.pendingBound = some n → n ≤ s.pending.length → act (.accept w) s = s)

/-- Along every sequence of offers and completions from every state: the responses delivered followed by Exec of what is still
pending are Exec of all that was pending and accepted, in order. So from an empty queue the n-th response is Exec of the n-th
accepted command. (R49) -/
def Obligations.ResponsesInAcceptOrder : Prop :=
  ∀ (as : List Action) (s : State), (∀ a ∈ as, a ≠ .reset) →
    (runActions as s).responses ++ (runActions as s).pending.map (execWord s.params)
      = s.responses ++ (s.pending ++ acceptedWords as s).map (execWord s.params) ∧
    (s.pending = [] → ∃ k, (runActions as s).responses
      = s.responses ++ ((acceptedWords as s).map (execWord s.params)).take k)

/-- From every state reset empties the queue and leaves responses and parameters; a command accepted after it and completed
gets Exec of its word, the response it would have had before. That delivered responses stay recorded is no rule of the spec
but the model's choice, log 1; that the parameters stand in the state is its choice, log 2. (70_reset_and_hazards.md rule
R230; 10_state.md section 3) -/
def Obligations.ResetEmptiesQueueOnly : Prop :=
  (∀ s : State, act .reset s = { pending := [], responses := s.responses, params := s.params }) ∧
  (∀ (s : State) (cmd : Word), canAccept (act .reset s) = true →
    act .complete (act (.accept cmd) (act .reset s))
      = { pending := [], responses := s.responses ++ [execWord s.params cmd], params := s.params })

/-- A run without reset that begins and ends with an empty queue delivers exactly Exec of the accepted commands, in order; the
observation of a run interrupted by reset is that of the part before, followed by that of the run that starts after it. (R244)
-/
def Obligations.RunObservation : Prop :=
  (∀ (as : List Action) (s : State), (∀ a ∈ as, a ≠ .reset) → s.pending = [] → (runActions as s).pending = [] →
    (runActions as s).responses = s.responses ++ (acceptedWords as s).map (execWord s.params)) ∧
  (∀ (as bs : List Action) (s : State),
    (runActions (as ++ .reset :: bs) s).responses
      = (runActions as s).responses ++ (runActions bs { s with pending := [], responses := [] }).responses)

/-- From every state, a run of as many steps as commands are pending ends with an empty queue and each of them answered, in
order, with Exec of its word: every accepted command is eventually answered. Steps that happen are the model's form of the
fairness assumption of R243. (70_reset_and_hazards.md rule R243; 20_memory.md section 4) -/
def Obligations.QueueDrains : Prop :=
  ∀ s : State, Host.Core.run Sys2Proof.core s.pending.length s
    = .next { s with pending := [], responses := s.responses ++ s.pending.map (execWord s.params) }

/-- Two machines with the same parameters and the same command at the head of the queue, whatever else is pending and whatever
responses (errors among them) went before, deliver the same response to it. (10_state.md rule R26; 60_exceptions.md rule R212)
-/
def Obligations.ResponseIndependentOfHistory : Prop :=
  ∀ (s t : State) (cmd : Word) (rs rt : List Word), s.params = t.params → s.pending = cmd :: rs → t.pending = cmd :: rt →
    ∃ r : Word, step s = .next { s with pending := rs, responses := s.responses ++ [r] } ∧
      step t = .next { t with pending := rt, responses := t.responses ++ [r] }

/-- With one ENC per symbol pending, as many completions deliver the encrypted codes in message order, each symbol on its own;
with one DEC per code of that result pending, they deliver the message. (43_cipher_pipeline.md rules R174, R177;
95_test_vectors.md program P6) -/
def Obligations.MessageEncryptsSymbolBySymbol : Prop :=
  (∀ (s : State) (k1 k2 : BitVec 8) (m : List (BitVec 8)), s.pending = encryptMessage k1 k2 m →
    runActions (List.replicate m.length .complete) s
      = { s with pending := [], responses := s.responses ++
            m.map fun c => (encrypt s.params.sbox1 s.params.sbox2 c k1 k2).setWidth 32 }) ∧
  (∀ (s : State) (k1 k2 : BitVec 8) (m : List (BitVec 8)),
    s.pending = decryptMessage k1 k2 (m.map fun c => encrypt s.params.sbox1 s.params.sbox2 c k1 k2) →
    runActions (List.replicate m.length .complete) s
      = { s with pending := [], responses := s.responses ++ m.map fun c => c.setWidth 32 })

/-- For every system of instances and every interleaving of events at them, each instance ends in the state that its own
events, in their order, give it: instances share nothing. A system after reset has at least one instance, each in the state
after reset. That a reset among the events reaches one instance is the model's choice, log 7 (the spec does not say whether
reset reaches one or all); that all instances have the same parameters at reset is the model's choice, log 14.
(60_exceptions.md rule R222; 20_memory.md rule R50; 00_scope.md rule R10) -/
def Obligations.InstancesDoNotInterfere : Prop :=
  (∀ (events : List (Nat × Action)) (sys : Instances) (i : Nat),
    (runInstances events sys).cores[i]? = sys.cores[i]?.map (runActions (actionsAt i events))) ∧
  (1 ≤ Instances.reset.cores.length ∧ ∀ c ∈ Instances.reset.cores, c = State.reset)

/-- For every line of R72's table whose operands fit their fields (A below 1024, B and C below 256), the assembled word is that
of the command with exactly these operands, also where an operand exceeds its unit's width; any operand that does not fit is an
assembly error; .word gives its word verbatim. (30_encoding.md section 4) -/
def Obligations.AssemblerPlacesOperandsUnchanged : Prop :=
  (∀ a b c : Nat, a < 1024 → b < 256 → c < 256 →
    assemble (.derive a) = .ok (encode (.derive 0 (BitVec.ofNat 10 a) 0 0)) ∧
    assemble (.enc a b c) = .ok (encode (.enc 0 (BitVec.ofNat 10 a) (BitVec.ofNat 8 b) (BitVec.ofNat 8 c))) ∧
    assemble (.dec a b c) = .ok (encode (.dec 0 (BitVec.ofNat 10 a) (BitVec.ofNat 8 b) (BitVec.ofNat 8 c))) ∧
    assemble (.permP10 a) = .ok (encode (.permP10 0 (BitVec.ofNat 10 a) 0 0)) ∧
    assemble (.permP8 a) = .ok (encode (.permP8 0 (BitVec.ofNat 10 a) 0 0)) ∧
    assemble (.permP4 a) = .ok (encode (.permP4 0 (BitVec.ofNat 10 a) 0 0)) ∧
    assemble (.permEP a) = .ok (encode (.permEP 0 (BitVec.ofNat 10 a) 0 0)) ∧
    assemble (.permIP1 a) = .ok (encode (.permIP1 0 (BitVec.ofNat 10 a) 0 0)) ∧
    assemble (.permIP2 a) = .ok (encode (.permIP2 0 (BitVec.ofNat 10 a) 0 0)) ∧
    assemble (.rotl5 a c) = .ok (encode (.rotl5 0 (BitVec.ofNat 10 a) 0 (BitVec.ofNat 8 c))) ∧
    assemble (.sbox1 a) = .ok (encode (.sbox1 0 (BitVec.ofNat 10 a) 0 0)) ∧
    assemble (.sbox2 a) = .ok (encode (.sbox2 0 (BitVec.ofNat 10 a) 0 0)) ∧
    assemble (.round a b) = .ok (encode (.round 0 (BitVec.ofNat 10 a) (BitVec.ofNat 8 b) 0)) ∧
    assemble (.swap a) = .ok (encode (.swap 0 (BitVec.ofNat 10 a) 0 0))) ∧
  (∀ a b c : Nat, (1024 ≤ a ∨ 256 ≤ b ∨ 256 ≤ c) →
    assemble (.enc a b c) = .error .operandDoesNotFit ∧ assemble (.dec a b c) = .error .operandDoesNotFit) ∧
  (∀ a : Nat, 1024 ≤ a →
    ∀ l ∈ [AsmLine.derive a, .permP10 a, .permP8 a, .permP4 a, .permEP a, .permIP1 a, .permIP2 a, .sbox1 a, .sbox2 a, .swap a],
      assemble l = .error .operandDoesNotFit) ∧
  (∀ a b : Nat, (1024 ≤ a ∨ 256 ≤ b) →
    assemble (.rotl5 a b) = .error .operandDoesNotFit ∧ assemble (.round a b) = .error .operandDoesNotFit) ∧
  (∀ w : Word, assemble (.word w) = .ok w)

/-- From every state, for every chip and every command word: immediately after a reset, and in the state right after reset,
the core accepts the word, which is then all that is pending, and the completion that follows delivers Exec of the word;
nothing need be initialised first. That a bound of the queue is at least 1 is read from R231, log 3; that delivered responses
stay recorded over a reset is the model's choice, log 1. (70_reset_and_hazards.md rule R231; 60_exceptions.md rule R210) -/
def Obligations.ResetCoreAcceptsCommands : Prop :=
  (∀ (s : State) (cmd : Word),
    act (.accept cmd) (act .reset s) = { s with pending := [cmd] } ∧
    runActions [.reset, .accept cmd, .complete] s
      = { s with pending := [], responses := s.responses ++ [execWord s.params cmd] }) ∧
  (∀ cmd : Word,
    act (.accept cmd) State.reset = { State.reset with pending := [cmd] } ∧
    runActions [.accept cmd, .complete] State.reset
      = { State.reset with responses := [execWord State.reset.params cmd] })
end

