-- ==== Sys2Proof/Laws/State.lean ====
section
/-! SUPPORT. What each operation on the state does to each field. -/

namespace Sys2Proof.Machine

@[simp] theorem deliver_pending (s : State) (r : Word) : (deliver s r).pending = s.pending := rfl
@[simp] theorem deliver_responses (s : State) (r : Word) : (deliver s r).responses = s.responses ++ [r] := rfl
@[simp] theorem deliver_params (s : State) (r : Word) : (deliver s r).params = s.params := rfl

@[simp] theorem resetCore_pending (s : State) : (resetCore s).pending = [] := rfl
@[simp] theorem resetCore_responses (s : State) : (resetCore s).responses = s.responses := rfl
@[simp] theorem resetCore_params (s : State) : (resetCore s).params = s.params := rfl

@[simp] theorem placeAtHead_pending (s : State) (w : Word) : (placeAtHead w s).pending = w :: s.pending := rfl
@[simp] theorem placeAtHead_responses (s : State) (w : Word) : (placeAtHead w s).responses = s.responses := rfl
@[simp] theorem placeAtHead_params (s : State) (w : Word) : (placeAtHead w s).params = s.params := rfl

@[simp] theorem reset_pending : State.reset.pending = [] := rfl
@[simp] theorem reset_responses : State.reset.responses = [] := rfl
@[simp] theorem reset_params : State.reset.params = Config.parameters := rfl

@[simp] theorem accept_responses (s : State) (w : Word) : (accept w s).responses = s.responses := by
  unfold accept; split <;> rfl

@[simp] theorem accept_params (s : State) (w : Word) : (accept w s).params = s.params := by
  unfold accept; split <;> rfl

theorem accept_pending (s : State) (w : Word) :
    (accept w s).pending = if canAccept s then s.pending ++ [w] else s.pending := by
  unfold accept; split <;> rfl

/-- The port's readiness depends on the queue's length and the bound alone. -/
theorem canAccept_congr {s t : State} (hq : s.pending = t.pending) (hp : s.params = t.params) :
    canAccept s = canAccept t := by
  simp [canAccept, hq, hp]

/-- A bound of `pending`, where the chip has one, is at least 1. -/
theorem pendingBound_pos {p : Parameters} {bound : Nat} (h : p.pendingBound = some bound) : 0 < bound := by
  obtain ⟨extra, -, rfl⟩ := Option.map_eq_some_iff.mp h
  exact Nat.succ_pos extra

/-- An empty queue takes a command, whatever the bound. -/
theorem canAccept_of_pending_nil {s : State} (h : s.pending = []) : canAccept s = true := by
  unfold canAccept
  split
  · rfl
  · next bound hb => simpa [h] using pendingBound_pos hb

/-- R231: immediately after reset the core accepts commands. -/
@[simp] theorem canAccept_resetCore (s : State) : canAccept (resetCore s) = true := canAccept_of_pending_nil rfl
@[simp] theorem canAccept_reset : canAccept State.reset = true := canAccept_of_pending_nil rfl

theorem takeHead_nil {s : State} (h : s.pending = []) : takeHead s = none := by
  simp [takeHead, h]

theorem takeHead_cons {s : State} {cmd : Word} {rest : List Word} (h : s.pending = cmd :: rest) :
    takeHead s = some (cmd, { s with pending := rest }) := by
  simp [takeHead, h]

@[simp] theorem takeHead_placeAtHead (s : State) (w : Word) : takeHead (placeAtHead w s) = some (w, s) := rfl

/-- What taking the head can do: nothing where the queue is empty, else the oldest word leaves the queue and nothing else changes. -/
theorem takeHead_cases (s : State) :
    (s.pending = [] ∧ takeHead s = none) ∨
      ∃ cmd rest, s.pending = cmd :: rest ∧ takeHead s = some (cmd, { s with pending := rest }) := by
  cases h : s.pending with
  | nil => exact .inl ⟨rfl, takeHead_nil h⟩
  | cons cmd rest => exact .inr ⟨cmd, rest, rfl, takeHead_cons h⟩

theorem runActions_append (as bs : List Action) (s : State) :
    runActions (as ++ bs) s = runActions bs (runActions as s) := by
  induction as generalizing s with
  | nil => rfl
  | cons a as ih => exact ih (act a s)

end Sys2Proof.Machine
end

