-- ==== Sys2Proof/Laws/Status.lean ====
section
/-! SUPPORT. The checks and the response word: everything a command's status and answer can be. -/

namespace Sys2Proof.Machine

@[simp] theorem responseWord_illegal (res : BitVec 16) : responseWord .illegal res = 0x10000000 := rfl
@[simp] theorem responseWord_size (res : BitVec 16) : responseWord .size res = 0x20000000 := rfl
@[simp] theorem responseWord_range (res : BitVec 16) : responseWord .range res = 0x30000000 := rfl

theorem responseWord_ok (res : BitVec 16) : responseWord .ok res = (0 : BitVec 16) ++ res := by
  simp [responseWord, statusBits]

/-- The OK response of a zero-extended result is the result in an otherwise zero word (R70, R71). -/
theorem responseWord_ok_setWidth {n : Nat} (hn : n ≤ 16) (x : BitVec n) :
    responseWord .ok (x.setWidth 16) = x.setWidth 32 := by
  rw [responseWord_ok]
  apply BitVec.eq_of_toNat_eq
  have hx := x.isLt
  have hp : 2 ^ n ≤ 2 ^ 16 := Nat.pow_le_pow_right (by omega) hn
  rw [BitVec.toNat_append, BitVec.toNat_setWidth, BitVec.toNat_setWidth,
    Nat.mod_eq_of_lt (by omega), Nat.mod_eq_of_lt (by omega)]
  simp

/-- The causes of ILLEGAL in an assigned opcode: (b), (c) and (d) of R202. -/
def illegalCause (p : Parameters) (op : Opcode) (rsv : BitVec 2) (b c : BitVec 8) : Prop :=
  (isUnitAccess op = true ∧ p.unitAccess = false) ∨ rsv ≠ 0 ∨
    (mustZeroB op = true ∧ b ≠ 0) ∨ (mustZeroC op = true ∧ c ≠ 0)

theorem commandStatus_of_illegalCause {p : Parameters} {op : Opcode} {rsv : BitVec 2} {b c : BitVec 8} (a : BitVec 10)
    (h : illegalCause p op rsv b c) : commandStatus p op rsv a b c = .illegal := by
  unfold commandStatus
  obtain h | h | h | h := h <;> split_ifs <;> simp_all

theorem commandStatus_of_tooWide {p : Parameters} {op : Opcode} {rsv : BitVec 2} {a : BitVec 10} {b c : BitVec 8}
    (h : ¬ illegalCause p op rsv b c) (hw : tooWide op a = true) :
    commandStatus p op rsv a b c = widthError op := by
  simp only [illegalCause, not_or, not_and, ne_eq, not_not, Bool.not_eq_false] at h
  obtain ⟨hu, hr, hb, hc⟩ := h
  simp only [commandStatus]
  split_ifs <;> simp_all

theorem commandStatus_of_fits {p : Parameters} {op : Opcode} {rsv : BitVec 2} {a : BitVec 10} {b c : BitVec 8}
    (h : ¬ illegalCause p op rsv b c) (hw : tooWide op a = false) :
    commandStatus p op rsv a b c = .ok := by
  simp only [illegalCause, not_or, not_and, ne_eq, not_not, Bool.not_eq_false] at h
  obtain ⟨hu, hr, hb, hc⟩ := h
  simp only [commandStatus]
  split_ifs <;> simp_all

theorem tooWide_iff (op : Opcode) (a : BitVec 10) : tooWide op a = true ↔ 2 ^ inputWidth op ≤ a.toNat := by
  simp [tooWide]

theorem tooWide_eq_false_iff (op : Opcode) (a : BitVec 10) : tooWide op a = false ↔ a.toNat < 2 ^ inputWidth op := by
  rw [← Bool.not_eq_true, tooWide_iff, Nat.not_le]

/-- A 10-bit operand always fits (R203: "impossible, because `wA` = 10 equals the field's width"). -/
theorem tooWide_of_width_ten {op : Opcode} (h : inputWidth op = 10) (a : BitVec 10) : tooWide op a = false := by
  have := a.isLt
  rw [tooWide_eq_false_iff, h]
  omega

/-- What completing a command does, field by field (R25, R210): one response more, nothing else. -/
theorem complete_eq (s : State) (st : Status) (res : BitVec 16) :
    complete s st res = .next { s with responses := s.responses ++ [responseWord st res] } := rfl

end Sys2Proof.Machine
end

