-- ==== Sys2Proof/Laws/Exec.lean ====
section
/-! SUPPORT. What a command's meaning can do, said once for all 14. -/

namespace Sys2Proof.Machine

/-- What the checks of R69 decide for a command. -/
def statusOf (p : Parameters) (i : Instr) : Status :=
  commandStatus p i.opcode i.fields.rsv i.fields.a i.fields.b i.fields.c

/-- RES of a command that passes the checks (R71). -/
def resultOf (p : Parameters) : Instr → BitVec 16
  | .derive _ key _ _ => (keySched (lowBits 10 key)).1 ++ (keySched (lowBits 10 key)).2
  | .enc _ code k1 k2 => (encrypt p.sbox1 p.sbox2 (lowBits 8 code) k1 k2).setWidth 16
  | .dec _ code k1 k2 => (decrypt p.sbox1 p.sbox2 (lowBits 8 code) k1 k2).setWidth 16
  | .permP10 _ v _ _ => (perm tableP10 (lowBits 10 v)).setWidth 16
  | .permP8 _ v _ _ => (perm tableP8 (lowBits 10 v)).setWidth 16
  | .permP4 _ v _ _ => (perm tableP4 (lowBits 4 v)).setWidth 16
  | .permEP _ v _ _ => (perm tableEP (lowBits 4 v)).setWidth 16
  | .permIP1 _ v _ _ => (perm tableIP1 (lowBits 8 v)).setWidth 16
  | .permIP2 _ v _ _ => (perm tableIP2 (lowBits 8 v)).setWidth 16
  | .rotl5 _ h _ n => (rotl5 (lowBits 5 h) n.toNat).setWidth 16
  | .sbox1 _ x _ _ => (sbox p.sbox1 (lowBits 4 x)).setWidth 16
  | .sbox2 _ x _ _ => (sbox p.sbox2 (lowBits 4 x)).setWidth 16
  | .round _ v k _ => (feistelRound p.sbox1 p.sbox2 (lowBits 8 v) k).setWidth 16
  | .swap _ v _ _ => (halfSwap (lowBits 8 v)).setWidth 16

/-- Everything a command does: the checks of R69 on its own fields, then one response, and nothing else. -/
theorem exec_eq (i : Instr) (s : State) :
    exec i s = .next (deliver s (responseWord (statusOf s.params i) (resultOf s.params i))) := by
  cases i <;> rfl

/-- Inversion: a command's next state is the old one with one response more. -/
theorem exec_next_inv {i : Instr} {s t : State} (h : exec i s = .next t) : ∃ r, t = deliver s r := by
  rw [exec_eq, Host.Outcome.next.injEq] at h
  exact ⟨_, h.symm⟩

/-- No meaning reads the queue or the responses: what it delivers depends on the parameters alone (R20, R26). -/
theorem exec_of_same_params (i : Instr) {s t : State} (h : s.params = t.params) :
    ∃ r, exec i s = .next (deliver s r) ∧ exec i t = .next (deliver t r) :=
  ⟨_, exec_eq i s, by rw [exec_eq, h]⟩

@[simp] theorem act_accept (w : Word) (s : State) : act (.accept w) s = accept w s := rfl
@[simp] theorem act_reset (s : State) : act .reset s = resetCore s := rfl

theorem act_complete_of_next {s t : State} (h : step s = .next t) : act .complete s = t := by
  simp [act, h]

end Sys2Proof.Machine
end

