-- ==== Sys2Proof/Laws/PerInstr.lean ====
section
/-! SUPPORT. Families of statements about every command as syntax, one lemma a constructor. -/

namespace Sys2Proof.Laws.EncodedFields

/-- The word of a command holds its opcode in OP and each of its fields in its place (R60, R62). -/
def Statement (i : Instr) : Prop :=
  fieldOp (encode i) = opcodeBits i.opcode ∧ fieldsOf (encode i) = i.fields

theorem fields_of_wordOf (op : BitVec 4) (f : Fields) : fieldOp (wordOf op f) = op ∧ fieldsOf (wordOf op f) = f := by
  obtain ⟨rsv, a, b, c⟩ := f
  simp only [fieldsOf, Fields.mk.injEq]
  refine ⟨?_, ?_, ?_, ?_, ?_⟩ <;> apply BitVec.eq_of_getLsbD_eq <;> intro j hj <;>
    simp only [fieldOp, fieldRsv, fieldA, fieldB, fieldC, wordOf, BitVec.getLsbD_extractLsb', BitVec.getLsbD_cast,
      BitVec.getLsbD_append, hj, decide_true, Bool.true_and] <;>
    grind

theorem derive (rsv : BitVec 2) (key : BitVec 10) (b c : BitVec 8) : Statement (.derive rsv key b c) := fields_of_wordOf _ _
theorem enc (rsv : BitVec 2) (code : BitVec 10) (k1 k2 : BitVec 8) : Statement (.enc rsv code k1 k2) := fields_of_wordOf _ _
theorem dec (rsv : BitVec 2) (code : BitVec 10) (k1 k2 : BitVec 8) : Statement (.dec rsv code k1 k2) := fields_of_wordOf _ _
theorem permP10 (rsv : BitVec 2) (v : BitVec 10) (b c : BitVec 8) : Statement (.permP10 rsv v b c) := fields_of_wordOf _ _
theorem permP8 (rsv : BitVec 2) (v : BitVec 10) (b c : BitVec 8) : Statement (.permP8 rsv v b c) := fields_of_wordOf _ _
theorem permP4 (rsv : BitVec 2) (v : BitVec 10) (b c : BitVec 8) : Statement (.permP4 rsv v b c) := fields_of_wordOf _ _
theorem permEP (rsv : BitVec 2) (v : BitVec 10) (b c : BitVec 8) : Statement (.permEP rsv v b c) := fields_of_wordOf _ _
theorem permIP1 (rsv : BitVec 2) (v : BitVec 10) (b c : BitVec 8) : Statement (.permIP1 rsv v b c) := fields_of_wordOf _ _
theorem permIP2 (rsv : BitVec 2) (v : BitVec 10) (b c : BitVec 8) : Statement (.permIP2 rsv v b c) := fields_of_wordOf _ _
theorem rotl5 (rsv : BitVec 2) (h : BitVec 10) (b n : BitVec 8) : Statement (.rotl5 rsv h b n) := fields_of_wordOf _ _
theorem sbox1 (rsv : BitVec 2) (x : BitVec 10) (b c : BitVec 8) : Statement (.sbox1 rsv x b c) := fields_of_wordOf _ _
theorem sbox2 (rsv : BitVec 2) (x : BitVec 10) (b c : BitVec 8) : Statement (.sbox2 rsv x b c) := fields_of_wordOf _ _
theorem round (rsv : BitVec 2) (v : BitVec 10) (k c : BitVec 8) : Statement (.round rsv v k c) := fields_of_wordOf _ _
theorem swap (rsv : BitVec 2) (v : BitVec 10) (b c : BitVec 8) : Statement (.swap rsv v b c) := fields_of_wordOf _ _

end Sys2Proof.Laws.EncodedFields
end

