-- ==== Sys2Proof/Laws/Units.lean ====
section
/-! SUPPORT. The leaf units bit by bit: the permutation rule, the halves, the S-box table's places. -/

namespace Sys2Proof.Machine

/-- R101 on hardware bits: output bit `j` is the input bit that entry `wo - 1 - j` of the table names. -/
theorem perm_getLsbD {wi wo : Nat} (T : PermTable wi wo) (v : BitVec wi) (j : Nat) (hj : j < wo) :
    (perm T v).getLsbD j = v.getLsbD (wi - T.get (Fin.rev ⟨j, hj⟩)) := by
  simp [perm, seqpos, hj]

/-- R105, R143: a permutation unit only rewires, so it commutes with exclusive-or. -/
theorem perm_xor {wi wo : Nat} (T : PermTable wi wo) (u v : BitVec wi) :
    perm T (u ^^^ v) = perm T u ^^^ perm T v := by
  apply BitVec.eq_of_getLsbD_eq
  intro j hj
  simp only [BitVec.getLsbD_xor, perm_getLsbD _ _ j hj]

/-- "Every entry is a valid 1-based index into the input sequence" (40_bit_units.md section 2). -/
theorem table_entries_valid :
    (∀ p ∈ tableP10.toList, 1 ≤ p ∧ p ≤ 10) ∧ (∀ p ∈ tableP8.toList, 1 ≤ p ∧ p ≤ 10) ∧
      (∀ p ∈ tableP4.toList, 1 ≤ p ∧ p ≤ 4) ∧ (∀ p ∈ tableEP.toList, 1 ≤ p ∧ p ≤ 4) ∧
      (∀ p ∈ tableIP1.toList, 1 ≤ p ∧ p ≤ 8) ∧ (∀ p ∈ tableIP2.toList, 1 ≤ p ∧ p ≤ 8) := by
  decide

/-! ### Halves (R102) -/

@[simp] theorem leftHalf_append (l r : BitVec 4) : leftHalf (l ++ r) = l := by
  revert l r; decide

@[simp] theorem rightHalf_append (l r : BitVec 4) : rightHalf (l ++ r) = r := by
  revert l r; decide

/-- "Concatenating the halves in order, `left ++ right`, gives back `v`" (R102). -/
theorem halves_append (v : BitVec 8) : leftHalf v ++ rightHalf v = v := by
  revert v; decide

theorem halves10_append (v : BitVec 10) : leftHalf10 v ++ rightHalf10 v = v := by
  apply BitVec.eq_of_getLsbD_eq
  intro j hj
  simp only [leftHalf10, rightHalf10, BitVec.getLsbD_append, BitVec.getLsbD_extractLsb']
  split
  · simp [*]
  · rw [show 5 + (j - 5) = j by omega]
    simp [show j - 5 < 5 by omega]

theorem leftHalf10_xor (u v : BitVec 10) : leftHalf10 (u ^^^ v) = leftHalf10 u ^^^ leftHalf10 v := by
  simp [leftHalf10, BitVec.extractLsb'_xor]

theorem rightHalf10_xor (u v : BitVec 10) : rightHalf10 (u ^^^ v) = rightHalf10 u ^^^ rightHalf10 v := by
  simp [rightHalf10, BitVec.extractLsb'_xor]

/-! ### Operands (R61, R100) -/

/-- Taking the low bits of a value that fills only these gives the value: `to_bits` is the identity (R100). -/
theorem lowBits_setWidth {w : Nat} (hw : w ≤ 10) (v : BitVec w) : lowBits w (v.setWidth 10) = v := by
  simp [lowBits, BitVec.setWidth_setWidth_of_le, hw]

@[simp] theorem lowBits_ten (v : BitVec 10) : lowBits 10 v = v := by
  simp [lowBits]

/-- A `w`-bit value in field A is not too wide for an input of `w` bits. -/
theorem toNat_setWidth_lt {w : Nat} (v : BitVec w) : (v.setWidth 10).toNat < 2 ^ w := by
  rw [BitVec.toNat_setWidth]
  exact Nat.lt_of_le_of_lt (Nat.mod_le _ _) v.isLt

/-! ### Places of an S-box table (R106) -/

theorem sboxEntry_row0 (S : SBoxTable) (col : BitVec 2) : sboxEntry S 0 col = sboxColumn S.r0 col := rfl
theorem sboxEntry_row1 (S : SBoxTable) (col : BitVec 2) : sboxEntry S 1 col = sboxColumn S.r1 col := rfl
theorem sboxEntry_row2 (S : SBoxTable) (col : BitVec 2) : sboxEntry S 2 col = sboxColumn S.r2 col := rfl
theorem sboxEntry_row3 (S : SBoxTable) (col : BitVec 2) : sboxEntry S 3 col = sboxColumn S.r3 col := rfl

end Sys2Proof.Machine
end

