-- ==== Sys2Proof/Tests/Slice0.lean ====
section
/-! SUPPORT. Small tests. Every expected value is written out from spec/: words from the encodings of R60 and R62 and from
95_test_vectors.md, responses from 95_test_vectors.md. Then, for each statement with hypotheses, states and operands that meet them. -/

namespace Sys2Proof.Tests

open Sys2Proof.Machine

/-- A core with the reference S-boxes (93_implementation_defined.md G1), all units present, and the given queue. -/
def testState (pending : List Word) : State :=
  { pending := pending, responses := [], params := ⟨referenceSbox1, referenceSbox2, true, none⟩ }

/-- The same without the unit-access group. -/
def plainState (pending : List Word) : State :=
  { pending := pending, responses := [], params := ⟨referenceSbox1, referenceSbox2, false, none⟩ }

/-- A core whose queue holds two commands at most. -/
def boundedState (pending : List Word) : State :=
  { pending := pending, responses := [], params := ⟨referenceSbox1, referenceSbox2, true, some 1⟩ }

/-- What one step delivers, where it answers a next state. -/
def delivered (o : Host.Outcome State Fault Refusal) : Option (List Word) :=
  match o with
  | .next t => some t.responses
  | .fault _ => none
  | .refused _ => none

/-! ### Well-formedness: one ill-formed term for each check -/

theorem test_wellFormed_accepts : (Instr.enc 0 255 0xE5 0x63).WellFormed = true := by decide
theorem test_wellFormed_reserved_field : (Instr.enc 1 97 0xE5 0x63).WellFormed = false := by decide
theorem test_wellFormed_field_b : (Instr.derive 0 666 1 0).WellFormed = false := by decide
theorem test_wellFormed_field_c : (Instr.round 0 0x12 0x34 1).WellFormed = false := by decide
theorem test_wellFormed_code_too_wide : (Instr.enc 0 256 0 0).WellFormed = false := by decide
theorem test_wellFormed_half_too_wide : (Instr.rotl5 0 32 0 1).WellFormed = false := by decide
theorem test_wellFormed_nibble_too_wide : (Instr.sbox1 0 16 0 0).WellFormed = false := by decide

/-! ### Decoding: each word from R60 and R62, bits 31:28 OP, 27:26 RSV, 25:16 A, 15:8 B, 7:0 C -/

theorem test_decode_derive : decode 0b0001_00_1010011010_00000000_00000000 = .ok (.derive 0 666 0 0) := by decide
theorem test_decode_enc : decode 0b0010_00_0001100001_11100101_01100011 = .ok (.enc 0 97 0xE5 0x63) := by decide
theorem test_decode_dec : decode 0b0011_00_0000101000_11100101_01100011 = .ok (.dec 0 40 0xE5 0x63) := by decide
theorem test_decode_permP10 : decode 0b0100_00_1010011010_00000000_00000000 = .ok (.permP10 0 666 0 0) := by decide
theorem test_decode_permP8 : decode 0b0101_00_0010111010_00000000_00000000 = .ok (.permP8 0 0x0BA 0 0) := by decide
theorem test_decode_permP4 : decode 0b0110_00_0000001010_00000000_00000000 = .ok (.permP4 0 0b1010 0 0) := by decide
theorem test_decode_permEP : decode 0b0111_00_0000000001_00000000_00000000 = .ok (.permEP 0 1 0 0) := by decide
theorem test_decode_permIP1 : decode 0b1000_00_0001100001_00000000_00000000 = .ok (.permIP1 0 97 0 0) := by decide
theorem test_decode_permIP2 : decode 0b1001_00_0010100100_00000000_00000000 = .ok (.permIP2 0 0xA4 0 0) := by decide
theorem test_decode_rotl5 : decode 0b1010_00_0000010010_00000000_00000001 = .ok (.rotl5 0 0b10010 0 1) := by decide
theorem test_decode_sbox1 : decode 0b1011_00_0000001100_00000000_00000000 = .ok (.sbox1 0 0b1100 0 0) := by decide
theorem test_decode_sbox2 : decode 0b1100_00_0000001111_00000000_00000000 = .ok (.sbox2 0 0b1111 0 0) := by decide
theorem test_decode_round : decode 0b1101_00_0010100100_11100101_00000000 = .ok (.round 0 0xA4 0xE5 0) := by decide
theorem test_decode_swap : decode 0b1110_00_0000100100_00000000_00000000 = .ok (.swap 0 0x24 0 0) := by decide
theorem test_decode_every_field : decode 0b0010_01_0100000001_11100101_00000001 = .ok (.enc 1 0x101 0xE5 1) := by decide
theorem test_decode_reserved_zero : decode 0x00000000 = .error (.reservedOpcode 0x0) := by decide
theorem test_decode_reserved_ones : decode 0xFFFFFFFF = .error (.reservedOpcode 0xF) := by decide
theorem test_decodeTableWord : decodeTableWord 32 0xE0240000 = some (.swap 0 0x24 0 0) := by decide

/-! ### One step on one pending word (95_test_vectors.md sections 2.1 to 2.7 and 3) -/

/-- 95_test_vectors.md 2.4. -/
theorem test_step_derive : delivered (step (testState [0x129A0000])) = some [0x0000E563] := by decide
/-- 95_test_vectors.md 2.4, G3. -/
theorem test_step_derive_textbook_key : delivered (step (testState [0x12820000])) = some [0x0000A443] := by decide
/-- 95_test_vectors.md P1. -/
theorem test_step_enc : delivered (step (testState [0x2061E563])) = some [0x00000028] := by decide +kernel
/-- 95_test_vectors.md P5. -/
theorem test_step_enc_textbook : delivered (step (testState [0x2097A443])) = some [0x00000038] := by decide +kernel
/-- 95_test_vectors.md P1. -/
theorem test_step_dec : delivered (step (testState [0x3028E563])) = some [0x00000061] := by decide +kernel
/-- 95_test_vectors.md 2.6. -/
theorem test_step_dec_all_ones : delivered (step (testState [0x3049FFFF])) = some [0x00000080] := by decide +kernel
/-- 95_test_vectors.md 2.1. -/
theorem test_step_permP10 : delivered (step (testState [0x424D0000])) = some [0x0000007A] := by decide
/-- 95_test_vectors.md 2.1. -/
theorem test_step_permP8 : delivered (step (testState [0x528B0000])) = some [0x00000063] := by decide
/-- 95_test_vectors.md 2.1. -/
theorem test_step_permP4 : delivered (step (testState [0x60060000])) = some [0x0000000A] := by decide
/-- 95_test_vectors.md 2.1. -/
theorem test_step_permEP : delivered (step (testState [0x70060000])) = some [0x0000003C] := by decide
/-- 95_test_vectors.md 2.1. -/
theorem test_step_permIP1 : delivered (step (testState [0x805A0000])) = some [0x0000008B] := by decide
/-- 95_test_vectors.md 2.1. -/
theorem test_step_permIP2 : delivered (step (testState [0x905A0000])) = some [0x0000009C] := by decide
/-- 95_test_vectors.md 2.2. -/
theorem test_step_rotl5 : delivered (step (testState [0xA0190003])) = some [0x0000000E] := by decide
/-- 95_test_vectors.md 2.2. -/
theorem test_step_rotl5_amount_255 : delivered (step (testState [0xA01900FF])) = some [0x00000019] := by decide
/-- 95_test_vectors.md 2.3. -/
theorem test_step_sbox1 : delivered (step (testState [0xB00D0000])) = some [0x00000003] := by decide
/-- 95_test_vectors.md 2.7. -/
theorem test_step_sbox1_size : delivered (step (testState [0xB0100000])) = some [0x20000000] := by decide
/-- 95_test_vectors.md 2.3. -/
theorem test_step_sbox2 : delivered (step (testState [0xC0090000])) = some [0x00000002] := by decide
/-- 95_test_vectors.md 2.5. -/
theorem test_step_round : delivered (step (testState [0xD05A6300])) = some [0x0000002A] := by decide
/-- 95_test_vectors.md 2.7. -/
theorem test_step_round_size : delivered (step (testState [0xD1123400])) = some [0x20000000] := by decide
/-- 95_test_vectors.md 2.5. -/
theorem test_step_swap : delivered (step (testState [0xE0120000])) = some [0x00000021] := by decide
/-- 95_test_vectors.md 2.7. -/
theorem test_step_swap_size : delivered (step (testState [0xE1000000])) = some [0x20000000] := by decide
/-- 95_test_vectors.md 2.7. -/
theorem test_step_range : delivered (step (testState [0x2100E563])) = some [0x30000000] := by decide +kernel
/-- 95_test_vectors.md 2.7. -/
theorem test_step_illegal_over_range : delivered (step (testState [0x2500E563])) = some [0x10000000] := by decide +kernel
/-- 95_test_vectors.md 2.7. -/
theorem test_step_reserved : delivered (step (testState [0xFFFFFFFF])) = some [0x10000000] := by decide
/-- P7: without the unit-access group PERM.P10 is ILLEGAL and DERIVE is not. -/
theorem test_step_unit_absent : delivered (step (plainState [0x429A0000])) = some [0x10000000] := by decide
theorem test_step_derive_without_units : delivered (step (plainState [0x129A0000])) = some [0x0000E563] := by decide
/-- The opcode is judged before the width (R204): SWAP 0x100 without the unit-access group. -/
theorem test_step_absent_over_size : delivered (step (plainState [0xE1000000])) = some [0x10000000] := by decide
/-- R25: the oldest word is answered, and the younger one stays. -/
theorem test_step_order : step (testState [0xE0120000, 0x429A0000]) = .next { testState [0x429A0000] with responses := [0x21] } := by
  rfl
/-- The word placed for the next step is the one that runs. -/
theorem test_fetch_word : delivered (step ((testState [0x429A0000]).withFetchWord 32 0xE0240000)) = some [0x42] := by decide
/-- R241: an offered word joins the tail; at the bound it is not accepted (log 3). -/
theorem test_accept : (accept 0x12820000 (boundedState [0x129A0000])).pending = [0x129A0000, 0x12820000] := by decide
theorem test_accept_full : accept 0x12820000 (boundedState [0x129A0000, 0x129A0000]) = boundedState [0x129A0000, 0x129A0000] := by decide
/-- R231: also where the queue has one place only. -/
theorem test_accept_after_reset :
    (accept 0x12820000 (resetCore { testState [0x129A0000] with params := ⟨referenceSbox1, referenceSbox2, true, some 0⟩ })).pending
      = [0x12820000] := by decide
/-- R230. -/
theorem test_reset : (resetCore (testState [0x129A0000])).pending = [] := by decide
/-- R72: an operand that fits its field assembles also where it exceeds its unit (P4 step 2); one that does not fit is an error. -/
theorem test_assemble : assemble (.enc 0x100 0xE5 0x63) = .ok 0x2100E563 := by decide
theorem test_assemble_error : assemble (.derive 1024) = .error .operandDoesNotFit := by decide
/-- R72: a digit must be one of the number's base. -/
theorem test_readNumber_digit_beyond_base : readNumber ['0', 'b', '1', '2'] = none := by decide
/-- R72: decimal, hex and binary operands, and a form that is none (P1 step 2, section 2.2). -/
theorem test_assembleText : assembleText ['E', 'N', 'C', ' ', '9', '7', ',', ' ', '0', 'x', 'E', '5', ',', ' ', '0', 'x', '6', '3'] = .ok 0x2061E563 := by
  decide
theorem test_assembleText_binary : assembleText ['R', 'O', 'T', 'L', '5', ' ', '0', 'b', '1', '0', '0', '1', '0', ',', ' ', '1'] = .ok 0xA0120001 := by
  decide
theorem test_assembleText_error : assembleText ['S', 'W', 'A', 'P', ' ', '1', ',', ' ', '2'] = .error .notAForm := by decide
/-- The spec's Exec on two words of section 2.7. -/
theorem test_execWord : execWord (testState []).params 0xA0100101 = 0x10000000 ∧ execWord (testState []).params 0x53000000 = 0 := by decide

/-! ### The hypotheses of the statements can be met -/

theorem witness_OpcodeMap :
    ((0x00000000 : Word).extractLsb' 28 4).toNat = 0x0 ∧
    ((0x10000000 : Word).extractLsb' 28 4).toNat = 0x1 ∧
    ((0x20000000 : Word).extractLsb' 28 4).toNat = 0x2 ∧
    ((0x30000000 : Word).extractLsb' 28 4).toNat = 0x3 ∧
    ((0x40000000 : Word).extractLsb' 28 4).toNat = 0x4 ∧
    ((0x50000000 : Word).extractLsb' 28 4).toNat = 0x5 ∧
    ((0x60000000 : Word).extractLsb' 28 4).toNat = 0x6 ∧
    ((0x70000000 : Word).extractLsb' 28 4).toNat = 0x7 ∧
    ((0x80000000 : Word).extractLsb' 28 4).toNat = 0x8 ∧
    ((0x90000000 : Word).extractLsb' 28 4).toNat = 0x9 ∧
    ((0xA0000000 : Word).extractLsb' 28 4).toNat = 0xA ∧
    ((0xB0000000 : Word).extractLsb' 28 4).toNat = 0xB ∧
    ((0xC0000000 : Word).extractLsb' 28 4).toNat = 0xC ∧
    ((0xD0000000 : Word).extractLsb' 28 4).toNat = 0xD ∧
    ((0xE0000000 : Word).extractLsb' 28 4).toNat = 0xE ∧
    ((0xF0000000 : Word).extractLsb' 28 4).toNat = 0xF := by decide

theorem witness_EncodeOfDecode : decode 0x2500E563 = .ok (.enc 1 0x100 0xE5 0x63) := by decide

theorem witness_StepRunsDecodedCommand :
    (testState [0x129A0000, 0]).pending = 0x129A0000 :: [0] ∧ decode 0x129A0000 = .ok (.derive 0 666 0 0) := by decide

theorem witness_StepAnswersReservedOpcode :
    (testState [0x0FFFFFFF]).pending = 0x0FFFFFFF :: [] ∧ ((0x0FFFFFFF : Word).extractLsb' 28 4).toNat = 0x0 ∧
      ((0xF0000000 : Word).extractLsb' 28 4).toNat = 0xF := by decide

theorem witness_EmptyQueueStepWaits : State.reset.pending = [] := rfl

theorem witness_FetchWordRunsNext : decode 0xE0240000 = .ok (.swap 0 0x24 0 0) := by decide

theorem witness_PermutationP10 : (1 ≤ 1 ∧ 1 ≤ 10) ∧ (1 ≤ 10 ∧ 10 ≤ 10) := by decide

theorem witness_PermutationP8 : (0x0BA : BitVec 10).extractLsb' 0 8 = (0x3BA : BitVec 10).extractLsb' 0 8 := by decide

theorem witness_ExpansionEP : (1 ≤ 1 ∧ 1 ≤ 4) ∧ (1 ≤ 4 ∧ 4 ≤ 4) := by decide

theorem witness_LeftRotationModuloFive : (0 : Nat) < 5 ∧ 4 < 5 := by decide

theorem witness_KeyScheduleDirectForm :
    (∀ i, i ≠ 5 → i ≠ 8 → (0 : BitVec 10).getLsbD i = (0x120 : BitVec 10).getLsbD i) ∧
      (∀ i, i ≠ 3 → i ≠ 6 → (0 : BitVec 10).getLsbD i = (0x048 : BitVec 10).getLsbD i) := by
  constructor <;> intro i h h' <;> by_cases hi : i < 10
  · interval_cases i <;> first | decide | contradiction
  · rw [BitVec.getLsbD_of_ge _ _ (by omega), BitVec.getLsbD_of_ge _ _ (by omega)]
  · interval_cases i <;> first | decide | contradiction
  · rw [BitVec.getLsbD_of_ge _ _ (by omega), BitVec.getLsbD_of_ge _ _ (by omega)]

theorem witness_EqualSubkeysInvolution : (keySched 1023).1 = (keySched 1023).2 := by decide

/-- The premises of the command statements: a field that must be zero and is not, and the corner keys. -/
theorem witness_DeriveCommand : ((1 : BitVec 2) ≠ 0 ∧ (3 : BitVec 2) ≠ 0) ∧ (1 : BitVec 8) ≠ 0 ∧ (0x80 : BitVec 8) ≠ 0 ∧ (0 : BitVec 10) = 0 := by decide

theorem witness_EncCommand : (2 : BitVec 2) ≠ 0 ∧ 256 ≤ (0x100 : BitVec 10).toNat ∧ 256 ≤ (0x3FF : BitVec 10).toNat := by decide

theorem witness_DecCommand : (3 : BitVec 2) ≠ 0 ∧ 256 ≤ (0x100 : BitVec 10).toNat ∧ 256 ≤ (0x3FF : BitVec 10).toNat := by decide

theorem witness_PermP10Command :
    (testState []).params.unitAccess = true ∧ (plainState []).params.unitAccess = false ∧ (1 : BitVec 2) ≠ 0 ∧ (1 : BitVec 8) ≠ 0 := by decide

theorem witness_PermP8Command :
    (testState []).params.unitAccess = true ∧ (plainState []).params.unitAccess = false ∧ (1 : BitVec 2) ≠ 0 ∧ (1 : BitVec 8) ≠ 0 ∧
      (0x100 : BitVec 10).extractLsb' 0 8 = (0x200 : BitVec 10).extractLsb' 0 8 := by decide

theorem witness_PermP4Command :
    (testState []).params.unitAccess = true ∧ (plainState []).params.unitAccess = false ∧ (1 : BitVec 2) ≠ 0 ∧ (1 : BitVec 8) ≠ 0 ∧
      16 ≤ (16 : BitVec 10).toNat ∧ 16 ≤ (1023 : BitVec 10).toNat := by decide

theorem witness_PermEPCommand :
    (testState []).params.unitAccess = true ∧ (plainState []).params.unitAccess = false ∧ (1 : BitVec 2) ≠ 0 ∧ (1 : BitVec 8) ≠ 0 ∧
      16 ≤ (16 : BitVec 10).toNat ∧ 16 ≤ (1023 : BitVec 10).toNat := by decide

theorem witness_PermIP1Command :
    (testState []).params.unitAccess = true ∧ (plainState []).params.unitAccess = false ∧ (1 : BitVec 2) ≠ 0 ∧ (1 : BitVec 8) ≠ 0 ∧
      256 ≤ (256 : BitVec 10).toNat ∧ 256 ≤ (1023 : BitVec 10).toNat := by decide

theorem witness_PermIP2Command :
    (testState []).params.unitAccess = true ∧ (plainState []).params.unitAccess = false ∧ (1 : BitVec 2) ≠ 0 ∧ (1 : BitVec 8) ≠ 0 ∧
      256 ≤ (256 : BitVec 10).toNat ∧ 256 ≤ (1023 : BitVec 10).toNat := by decide

theorem witness_Rotl5Command :
    (testState []).params.unitAccess = true ∧ (plainState []).params.unitAccess = false ∧ (1 : BitVec 2) ≠ 0 ∧ (1 : BitVec 8) ≠ 0 ∧
      32 ≤ (32 : BitVec 10).toNat ∧ 32 ≤ (1023 : BitVec 10).toNat := by decide

theorem witness_Sbox1Command :
    (testState []).params.unitAccess = true ∧ (plainState []).params.unitAccess = false ∧ (1 : BitVec 2) ≠ 0 ∧ (1 : BitVec 8) ≠ 0 ∧
      16 ≤ (16 : BitVec 10).toNat ∧ 16 ≤ (1023 : BitVec 10).toNat := by decide

theorem witness_Sbox2Command :
    (testState []).params.unitAccess = true ∧ (plainState []).params.unitAccess = false ∧ (1 : BitVec 2) ≠ 0 ∧ (1 : BitVec 8) ≠ 0 ∧
      16 ≤ (16 : BitVec 10).toNat ∧ 16 ≤ (1023 : BitVec 10).toNat := by decide

theorem witness_RoundCommand :
    (testState []).params.unitAccess = true ∧ (plainState []).params.unitAccess = false ∧ (1 : BitVec 2) ≠ 0 ∧ (1 : BitVec 8) ≠ 0 ∧
      256 ≤ (256 : BitVec 10).toNat ∧ 256 ≤ (1023 : BitVec 10).toNat := by decide

theorem witness_SwapCommand :
    (testState []).params.unitAccess = true ∧ (plainState []).params.unitAccess = false ∧ (1 : BitVec 2) ≠ 0 ∧ (1 : BitVec 8) ≠ 0 ∧
      256 ≤ (256 : BitVec 10).toNat ∧ 256 ≤ (1023 : BitVec 10).toNat := by decide

/-- Each cause of ILLEGAL, alone. -/
theorem witness_IllegalCausesAnsweredIllegal :
    (testState [0]).pending = 0 :: [] ∧ IllegalCommand (testState []).params 0 ∧ IllegalCommand (testState []).params 0xF0000000 ∧
      IllegalCommand (plainState []).params 0x429A0000 ∧ IllegalCommand (testState []).params 0x169A0000 ∧
      IllegalCommand (testState []).params 0x129A0100 ∧ IllegalCommand (testState []).params 0xD0123401 ∧
      ¬ IllegalCommand (testState []).params 0x429A0000 ∧ ¬ IllegalCommand (plainState []).params 0x20FFFFFF := by
  unfold IllegalCommand; and_intros <;> decide

/-- The least too wide operand of each width, and the greatest that fits. -/
theorem witness_WidthErrorsNeverTruncate :
    (testState [0x2100E563]).pending = 0x2100E563 :: [] ∧
      (¬ IllegalCommand (plainState []).params 0x2100E563 ∧ TooWideOperand 0x2100E563 ∧ ((0x2100E563 : Word).extractLsb' 28 4).toNat ∈ [0x2, 0x3]) ∧
      (¬ IllegalCommand (testState []).params 0xE1000000 ∧ TooWideOperand 0xE1000000) ∧
      (¬ IllegalCommand (testState []).params 0xA0200001 ∧ TooWideOperand 0xA0200001) ∧
      (¬ IllegalCommand (testState []).params 0x60100000 ∧ TooWideOperand 0x60100000) ∧
      ¬ TooWideOperand 0x20FFE563 ∧ ¬ TooWideOperand 0xA01F0001 ∧ ¬ TooWideOperand 0x600F0000 ∧
      ((0x43FF0000 : Word).extractLsb' 28 4).toNat ∈ [0x1, 0x4, 0x5] := by
  unfold IllegalCommand TooWideOperand; and_intros <;> decide

theorem witness_OneStatusByPriority :
    (testState [0x2100E501]).pending = 0x2100E501 :: [] ∧ (testState [0x2500E501]).pending = 0x2500E501 :: [] ∧
      (IllegalCommand (testState []).params 0x2500E501 ∧ TooWideOperand 0x2500E501) ∧
      (¬ IllegalCommand (testState []).params 0x2100E501 ∧ TooWideOperand 0x2100E501) ∧
      (¬ IllegalCommand (testState []).params 0x2000E501 ∧ ¬ TooWideOperand 0x2000E501) := by
  unfold IllegalCommand TooWideOperand; and_intros <;> decide

theorem witness_StepDeliversExec : (testState [0x129A0000, 0]).pending = 0x129A0000 :: [0] := rfl

theorem witness_StepKeepsSoundness :
    (boundedState [0xE0120000, 0]).Sound = true ∧
      step (boundedState [0xE0120000, 0]) = .next { boundedState [0] with responses := [0x21] } :=
  ⟨by decide, rfl⟩

theorem witness_HostActionsKeepSoundness : (boundedState [0, 0]).Sound = true := by decide

theorem witness_ParametersNeverChange : step (testState [0]) = .next { testState [] with responses := [0x10000000] } := rfl

theorem witness_AcceptAppendsWholeOrNot :
    (testState [0]).params.pendingBound = none ∧
      ((boundedState [0]).params.pendingBound = some 2 ∧ (boundedState [0]).pending.length < 2) ∧
      ((boundedState [0, 0]).params.pendingBound = some 2 ∧ 2 ≤ (boundedState [0, 0]).pending.length) := by decide

theorem witness_ResponsesInAcceptOrder :
    (∀ a ∈ [Action.accept 0x129A0000, .complete], a ≠ .reset) ∧ (testState []).pending = [] := by decide

theorem witness_ResetEmptiesQueueOnly : canAccept (act .reset (boundedState [0, 0])) = true := by decide

theorem witness_RunObservation :
    (∀ a ∈ [Action.accept 0xE0120000, .complete], a ≠ .reset) ∧ (testState []).pending = [] ∧
      (runActions [.accept 0xE0120000, .complete] (testState [])).pending = [] := by decide

theorem witness_ResponseIndependentOfHistory :
    (testState [0x129A0000]).params = { testState [0x129A0000, 0] with responses := [0x10000000] }.params ∧
      (testState [0x129A0000]).pending = 0x129A0000 :: [] ∧ (testState [0x129A0000, 0]).pending = 0x129A0000 :: [0] := by decide

theorem witness_MessageEncryptsSymbolBySymbol :
    (testState [0x2061E563, 0x2062E563]).pending = encryptMessage 0xE5 0x63 [0x61, 0x62] ∧
      (testState [0x3028E563]).pending =
        decryptMessage 0xE5 0x63 ([0x61].map fun c => encrypt referenceSbox1 referenceSbox2 c 0xE5 0x63) := by decide +kernel

theorem witness_AssemblerPlacesOperandsUnchanged :
    ((1023 : Nat) < 1024 ∧ (255 : Nat) < 256) ∧ (1024 : Nat) ≤ 1024 ∧ (256 : Nat) ≤ 256 := by decide

end Sys2Proof.Tests
end

/-! The queue, the step and the host's events (10_state.md): what each can do, and what every run keeps. -/

namespace Sys2Proof.Machine

/-! ### The port and the queue's bound (R25, R241) -/

/-- The port is ready exactly where the queue is below every bound the chip has. -/
theorem canAccept_iff (s : State) :
    canAccept s = true ↔ ∀ bound, s.params.pendingBound = some bound → s.pending.length < bound := by
  unfold canAccept
  split <;> simp [*]

theorem withinBound_iff (s : State) :
    withinBound s = true ↔ ∀ bound, s.params.pendingBound = some bound → s.pending.length ≤ bound := by
  unfold withinBound
  split <;> simp [*]

theorem accept_of_canAccept {s : State} (w : Word) (h : canAccept s = true) :
    accept w s = { s with pending := s.pending ++ [w] } :=
  if_pos h

theorem accept_of_not_canAccept {s : State} (w : Word) (h : ¬ canAccept s = true) : accept w s = s :=
  if_neg h

/-- A queue that did not grow is still within the bound. -/
theorem withinBound_of_length_le {s t : State} (hp : t.params = s.params)
    (hlen : t.pending.length ≤ s.pending.length) (h : withinBound s = true) : withinBound t = true := by
  rw [withinBound_iff] at h ⊢
  intro bound hbound
  exact hlen.trans (h bound (hp ▸ hbound))

/-- An accepted word does not exceed the bound, and a refused one does not join the queue. -/
theorem withinBound_accept {s : State} (w : Word) (h : withinBound s = true) :
    withinBound (accept w s) = true := by
  by_cases hready : canAccept s = true
  · rw [accept_of_canAccept w hready, withinBound_iff]
    intro bound hbound
    have hroom : s.pending.length < bound := (canAccept_iff s).mp hready bound hbound
    simpa using hroom
  · rwa [accept_of_not_canAccept w hready]

/-! ### What a step does (R25) -/

/-- The response to a command word: what its command's checks and result give, or ILLEGAL for a word of no command (R65). It is a
function of the word and the parameters alone. -/
def answer (p : Parameters) (cmd : Word) : Word :=
  match decode cmd with
  | .ok i => responseWord (statusOf p i) (resultOf p i)
  | .error _ => responseWord .illegal 0

theorem answer_of_decode_ok {cmd : Word} {i : Instr} (p : Parameters) (h : decode cmd = .ok i) :
    answer p cmd = responseWord (statusOf p i) (resultOf p i) := by
  simp [answer, h]

theorem answer_of_decode_error {cmd : Word} {e : DecodeError} (p : Parameters) (h : decode cmd = .error e) :
    answer p cmd = responseWord .illegal 0 := by
  simp [answer, h]

theorem completeUndecoded_eq (e : DecodeError) (s : State) :
    completeUndecoded e s = .next (deliver s (responseWord .illegal 0)) := by
  cases e; rfl

theorem step_of_pending_nil {s : State} (h : s.pending = []) : step s = .next s := by
  simp [step, takeHead_nil h]

theorem step_of_decode_ok {s : State} {cmd : Word} {rest : List Word} {i : Instr} (hq : s.pending = cmd :: rest)
    (hd : decode cmd = .ok i) : step s = exec i { s with pending := rest } := by
  simp [step, takeHead_cons hq, hd]

theorem step_of_decode_error {s : State} {cmd : Word} {rest : List Word} {e : DecodeError} (hq : s.pending = cmd :: rest)
    (hd : decode cmd = .error e) : step s = completeUndecoded e { s with pending := rest } := by
  simp [step, takeHead_cons hq, hd]

/-- The completion step of R25, for every word: the head leaves the queue and its answer is delivered. -/
theorem step_of_pending_cons {s : State} {cmd : Word} {rest : List Word} (hq : s.pending = cmd :: rest) :
    step s = .next (deliver { s with pending := rest } (answer s.params cmd)) := by
  cases hd : decode cmd with
  | ok i => rw [step_of_decode_ok hq hd, exec_eq, answer_of_decode_ok _ hd]
  | error e => rw [step_of_decode_error hq hd, completeUndecoded_eq, answer_of_decode_error _ hd]

/-- Everything a step can do. -/
theorem step_cases (s : State) :
    (s.pending = [] ∧ step s = .next s) ∨
      ∃ cmd rest, s.pending = cmd :: rest ∧
        step s = .next (deliver { s with pending := rest } (answer s.params cmd)) := by
  cases hq : s.pending with
  | nil => exact .inl ⟨rfl, step_of_pending_nil hq⟩
  | cons cmd rest => exact .inr ⟨cmd, rest, rfl, step_of_pending_cons hq⟩

/-- R210: every step has a next state. -/
theorem exists_step_eq_next (s : State) : ∃ t, step s = .next t := by
  obtain ⟨-, hstep⟩ | ⟨cmd, rest, -, hstep⟩ := step_cases s
  · exact ⟨_, hstep⟩
  · exact ⟨_, hstep⟩

/-- Inversion of `step_cases`: the machine waited, or it answered its oldest word. -/
theorem step_next_cases {s t : State} (h : step s = .next t) :
    t = s ∨ ∃ cmd rest, s.pending = cmd :: rest ∧ t = deliver { s with pending := rest } (answer s.params cmd) := by
  obtain ⟨-, hstep⟩ | ⟨cmd, rest, hq, hstep⟩ := step_cases s
  · exact .inl (Host.Outcome.next.inj (h.symm.trans hstep))
  · exact .inr ⟨cmd, rest, hq, Host.Outcome.next.inj (h.symm.trans hstep)⟩

theorem step_params {s t : State} (h : step s = .next t) : t.params = s.params := by
  obtain rfl | ⟨cmd, rest, -, rfl⟩ := step_next_cases h
  · rfl
  · rfl

/-- A 32-bit word survives the table's form of it, in which it is a number of 32 bits. -/
@[simp] theorem tableWord_toNat (w : Word) : tableWord 32 w.toNat = w := by
  simp [tableWord, Nat.mod_eq_of_lt w.isLt]

theorem withFetchWord_toNat (s : State) (w : Word) : s.withFetchWord 32 w.toNat = placeAtHead w s := by
  rw [State.withFetchWord, tableWord_toNat]

/-! ### Soundness (R70, R200, R211) -/

/-- Whatever is read above the result of an OK response is zero. -/
theorem extractLsb'_zero_append {start len : Nat} (res : BitVec 16) (h : 16 ≤ start) :
    ((0 : BitVec 16) ++ res).extractLsb' start len = 0 := by
  apply BitVec.eq_of_getLsbD_eq
  intro j hj
  rw [BitVec.getLsbD_extractLsb', BitVec.getLsbD_append, if_neg (by omega)]
  simp

/-- Every response word the core can form is sound: a status of the four, zeros in `[27:16]`, and no result beside an error. -/
theorem responseSound_responseWord (st : Status) (res : BitVec 16) : responseSound (responseWord st res) = true := by
  cases st with
  | ok =>
    rw [responseWord_ok, responseSound, extractLsb'_zero_append res (by omega), extractLsb'_zero_append res (by omega)]
    rfl
  | illegal => rw [responseWord_illegal]; decide
  | size => rw [responseWord_size]; decide
  | range => rw [responseWord_range]; decide

theorem responseSound_answer (p : Parameters) (cmd : Word) : responseSound (answer p cmd) = true := by
  cases hd : decode cmd with
  | ok i => rw [answer_of_decode_ok p hd]; exact responseSound_responseWord _ _
  | error e => rw [answer_of_decode_error p hd]; exact responseSound_responseWord _ _

theorem sound_iff (s : State) : s.Sound = true ↔ s.responses.all responseSound = true ∧ withinBound s = true := by
  rw [State.Sound, Bool.and_eq_true]

/-- Answering the oldest word keeps a state sound: the answer is sound and the queue gets shorter. -/
theorem sound_deliver_answer {s : State} {cmd : Word} {rest : List Word} (hq : s.pending = cmd :: rest)
    (hs : s.Sound = true) : (deliver { s with pending := rest } (answer s.params cmd)).Sound = true := by
  rw [sound_iff] at hs ⊢
  obtain ⟨hresponses, hbound⟩ := hs
  constructor
  · simp [List.all_append, hresponses, responseSound_answer]
  · exact withinBound_of_length_le (s := s) rfl (by simp [hq]) hbound

theorem step_sound {s t : State} (hs : s.Sound = true) (h : step s = .next t) : t.Sound = true := by
  obtain rfl | ⟨cmd, rest, hq, rfl⟩ := step_next_cases h
  · exact hs
  · exact sound_deliver_answer hq hs

theorem accept_sound {s : State} (w : Word) (hs : s.Sound = true) : (accept w s).Sound = true := by
  rw [sound_iff] at hs ⊢
  obtain ⟨hresponses, hbound⟩ := hs
  exact ⟨(accept_responses s w).symm ▸ hresponses, withinBound_accept w hbound⟩

theorem resetCore_sound {s : State} (hs : s.Sound = true) : (resetCore s).Sound = true := by
  rw [sound_iff] at hs ⊢
  obtain ⟨hresponses, hbound⟩ := hs
  exact ⟨hresponses, withinBound_of_length_le (s := s) rfl (Nat.zero_le _) hbound⟩

/-! ### Events and runs of them -/

/-- A property that each event keeps is kept by every sequence of events. -/
theorem runActions_keeps {P : State → Prop} (hact : ∀ a s, P s → P (act a s)) (as : List Action) (s : State)
    (hs : P s) : P (runActions as s) := by
  induction as generalizing s with
  | nil => exact hs
  | cons a as ih => exact ih (act a s) (hact a s hs)

theorem act_sound (a : Action) (s : State) (hs : s.Sound = true) : (act a s).Sound = true := by
  cases a with
  | accept w => exact accept_sound w hs
  | complete =>
    obtain ⟨t, ht⟩ := exists_step_eq_next s
    rw [act_complete_of_next ht]
    exact step_sound hs ht
  | reset => exact resetCore_sound hs

@[simp] theorem act_params (a : Action) (s : State) : (act a s).params = s.params := by
  cases a with
  | accept w => exact accept_params s w
  | complete =>
    obtain ⟨t, ht⟩ := exists_step_eq_next s
    rw [act_complete_of_next ht]
    exact step_params ht
  | reset => rfl

@[simp] theorem runActions_params (as : List Action) (s : State) : (runActions as s).params = s.params :=
  runActions_keeps (P := fun t => t.params = s.params) (fun a t ht => (act_params a t).trans ht) as s rfl

/-! ### The statements -/

/-- Settles O43: a step waits or delivers one sound answer, and the queue never grows. -/
theorem stepKeepsSoundness : Obligations.StepKeepsSoundness :=
  fun _ _ hs h => step_sound hs h

/-- Settles O45, by induction on the sequence of events: offers, completions and resets each keep soundness. -/
theorem hostActionsKeepSoundness : Obligations.HostActionsKeepSoundness :=
  fun as s hs => runActions_keeps act_sound as s hs

/-- Settles O46: no event and no step writes the parameters (R22). -/
theorem parametersNeverChange : Obligations.ParametersNeverChange :=
  ⟨runActions_params, fun _ _ h => step_params h⟩

/-- Settles O52: both machines deliver the `answer` of the one word at the one set of parameters (R26). -/
theorem responseIndependentOfHistory : Obligations.ResponseIndependentOfHistory := by
  intro s t cmd rs rt hp hs ht
  refine ⟨answer s.params cmd, step_of_pending_cons hs, ?_⟩
  rw [step_of_pending_cons ht, hp]
  rfl

/-- Settles O6: taking the head off leaves the rest, and dispatch is on the decoded command (R25). -/
theorem stepRunsDecodedCommand : Obligations.StepRunsDecodedCommand :=
  fun _ _ _ _ hq hd => step_of_decode_ok hq hd

/-- Settles O8: the idle machine waits (log 4). -/
theorem emptyQueueStepWaits : Obligations.EmptyQueueStepWaits :=
  fun _ h => step_of_pending_nil h

/-- Settles O9: the placed word is the head, and taking it away leaves the state before (log 5). -/
theorem fetchWordRunsNext : Obligations.FetchWordRunsNext := by
  intro s w i hd
  rw [withFetchWord_toNat]
  exact step_of_decode_ok (placeAtHead_pending s w) hd

/-- Settles O47: readiness is being below every bound there is; the three cases are none, below it and at it (log 3). -/
theorem acceptAppendsWholeOrNot : Obligations.AcceptAppendsWholeOrNot := by
  refine ⟨fun s w hnone => ?_, fun s w n hn hlt => ?_, fun s w n hn hle => ?_⟩
  · exact accept_of_canAccept w ((canAccept_iff s).mpr (by simp [hnone]))
  · exact accept_of_canAccept w ((canAccept_iff s).mpr (by simp [hn, hlt]))
  · exact accept_of_not_canAccept w fun hready => hle.not_gt ((canAccept_iff s).mp hready n hn)

end Sys2Proof.Machine

/-! The spec's `Exec` and the machine's answer (R62, R69, R210), and the order of responses along a run (R25, R49). -/

namespace Sys2Proof.Machine

/-! ### The tables by opcode and by OP number (R62, R67, R68) -/

/-- The OP values: the two reserved ones select no command, every other one is the number of the command it selects (R62, R65). -/
theorem opcodeOf_cases (op : BitVec 4) :
    ((op = 0x0 ∨ op = 0xF) ∧ opcodeOf op = none) ∨ ∃ o, op = opcodeBits o ∧ opcodeOf op = some o := by
  cases h : opcodeOf op with
  | none => left; revert op; decide
  | some o => right; refine ⟨o, ?_, rfl⟩; revert op; cases o <;> decide

theorem opcodeBits_not_reserved (o : Opcode) : (opcodeBits o).toNat ≠ 0x0 ∧ (opcodeBits o).toNat ≠ 0xF := by
  cases o <;> decide

/-- R64: the unit-access commands are those numbered 0x4 to 0xE. -/
theorem opcodeBits_unitAccess_iff (o : Opcode) :
    0x4 ≤ (opcodeBits o).toNat ∧ (opcodeBits o).toNat ≤ 0xE ↔ isUnitAccess o = true := by
  cases o <;> decide

@[simp] theorem wordMustZeroB_opcodeBits (o : Opcode) : wordMustZeroB (opcodeBits o).toNat = mustZeroB o := by
  cases o <;> rfl

@[simp] theorem wordMustZeroC_opcodeBits (o : Opcode) : wordMustZeroC (opcodeBits o).toNat = mustZeroC o := by
  cases o <;> rfl

@[simp] theorem wordInputWidth_opcodeBits (o : Opcode) : wordInputWidth (opcodeBits o).toNat = inputWidth o := by
  cases o <;> rfl

/-- The error of a too wide operand is RANGE for ENC and DEC and SIZE for the others (R203). -/
theorem responseWord_widthError (o : Opcode) (res : BitVec 16) :
    responseWord (widthError o) res
      = if (opcodeBits o).toNat = 0x2 ∨ (opcodeBits o).toNat = 0x3 then 0x30000000 else 0x20000000 := by
  cases o <;> rfl

@[simp] theorem instrOf_opcode (o : Opcode) (f : Fields) : (instrOf o f).opcode = o := by
  cases o <;> rfl

@[simp] theorem instrOf_fields (o : Opcode) (f : Fields) : (instrOf o f).fields = f := by
  cases o <;> rfl

/-- `A[w-1:0]` by bit positions is the operand narrowed to its width (R61). -/
theorem extractLsb'_zero_eq_lowBits (w : Nat) (a : BitVec 10) : a.extractLsb' 0 w = lowBits w a := by
  ext j; simp [lowBits]

/-- RES of an OP number is that of its command (R71). -/
theorem wordResult_opcodeBits (p : Parameters) (o : Opcode) (f : Fields) :
    wordResult p (opcodeBits o).toNat f.a f.b f.c = resultOf p (instrOf o f) := by
  cases o <;>
    simp [wordResult, opcodeBits, resultOf, instrOf, extractLsb'_zero_eq_lowBits, decrypt, BitVec.setWidth_eq_append]

/-! ### The machine's answer is `Exec` (R69, R210) -/

theorem responseWord_ite (c : Prop) [Decidable c] (st st' : Status) (res : BitVec 16) :
    responseWord (if c then st else st') res = if c then responseWord st res else responseWord st' res :=
  apply_ite (responseWord · res) c st st'

/-- The checks of `Exec` on the word are, in order, those of R69 on the command. -/
theorem execWord_of_opcodeBits {cmd : Word} {o : Opcode} (p : Parameters) (h : fieldOp cmd = opcodeBits o) :
    execWord p cmd = responseWord (commandStatus p o (fieldRsv cmd) (fieldA cmd) (fieldB cmd) (fieldC cmd))
      (wordResult p (opcodeBits o).toNat (fieldA cmd) (fieldB cmd) (fieldC cmd)) := by
  obtain ⟨h0, hF⟩ := opcodeBits_not_reserved o
  simp only [execWord, commandStatus, responseWord_ite, responseWord_illegal, responseWord_widthError, responseWord_ok]
  simp [h, h0, hF, opcodeBits_unitAccess_iff, tooWide, and_comm]

theorem execWord_of_reserved {cmd : Word} (p : Parameters) (h : fieldOp cmd = 0x0 ∨ fieldOp cmd = 0xF) :
    execWord p cmd = 0x10000000 := by
  obtain h | h := h <;> simp [execWord, h]

/-- R210: the response that decode, the checks and the command's result give is `Exec` of the word. -/
theorem answer_eq_execWord (p : Parameters) (cmd : Word) : answer p cmd = execWord p cmd := by
  obtain ⟨hreserved, hnone⟩ | ⟨o, hop, hsome⟩ := opcodeOf_cases (fieldOp cmd)
  · rw [answer_of_decode_error p (e := .reservedOpcode (fieldOp cmd)) (by simp [decode, hnone]),
      execWord_of_reserved p hreserved, responseWord_illegal]
  · rw [answer_of_decode_ok p (i := instrOf o (fieldsOf cmd)) (by simp [decode, hsome]),
      execWord_of_opcodeBits p hop, statusOf, instrOf_opcode, instrOf_fields, ← wordResult_opcodeBits]
    rfl

/-- The completion of R25: the head of the queue leaves it, and `Exec` of it is delivered. -/
theorem act_complete_of_pending_cons {s : State} {cmd : Word} {rest : List Word} (h : s.pending = cmd :: rest) :
    act .complete s = deliver { s with pending := rest } (execWord s.params cmd) := by
  rw [act_complete_of_next (step_of_pending_cons h), answer_eq_execWord]

theorem act_complete_of_pending_nil {s : State} (h : s.pending = []) : act .complete s = s :=
  act_complete_of_next (step_of_pending_nil h)

/-! ### The order of responses (R49) -/

/-- The responses delivered so far, followed by the ones that the pending commands will get. -/
def eventualResponses (s : State) : List Word :=
  s.responses ++ s.pending.map (execWord s.params)

/-- The words accepted along a run are those its first event accepts, then those the rest accepts. -/
theorem acceptedWords_cons (a : Action) (as : List Action) (s : State) :
    acceptedWords (a :: as) s = acceptedWords [a] s ++ acceptedWords as (act a s) := by
  cases a with
  | accept w => cases h : canAccept s <;> simp [acceptedWords, h]
  | complete => rfl
  | reset => rfl

/-- One event adds `Exec` of the word it accepts, if any, at the end; a completion turns one owed response into a delivered one. -/
theorem eventualResponses_act {a : Action} (h : a ≠ .reset) (s : State) :
    eventualResponses (act a s) = eventualResponses s ++ (acceptedWords [a] s).map (execWord s.params) := by
  cases a with
  | accept w => cases hready : canAccept s <;> simp [eventualResponses, acceptedWords, accept_pending, hready]
  | complete =>
    cases hq : s.pending with
    | nil => simp [act_complete_of_pending_nil hq, acceptedWords]
    | cons cmd rest => simp [act_complete_of_pending_cons hq, eventualResponses, acceptedWords, hq]
  | reset => exact absurd rfl h

/-- The same along a run without reset. -/
theorem eventualResponses_runActions (as : List Action) (s : State) (h : ∀ a ∈ as, a ≠ .reset) :
    eventualResponses (runActions as s) = eventualResponses s ++ (acceptedWords as s).map (execWord s.params) := by
  induction as generalizing s with
  | nil => simp [runActions, acceptedWords]
  | cons a as ih =>
    obtain ⟨ha, has⟩ := List.forall_mem_cons.mp h
    rw [runActions, ih _ has, eventualResponses_act ha, act_params, acceptedWords_cons a as, List.map_append,
      List.append_assoc]

/-- No event takes a delivered response back. -/
theorem responses_isPrefix_act (a : Action) (s : State) : s.responses <+: (act a s).responses := by
  cases a with
  | accept w => simp
  | complete =>
    cases hq : s.pending with
    | nil => rw [act_complete_of_pending_nil hq]
    | cons cmd rest => simp [act_complete_of_pending_cons hq]
  | reset => simp

theorem responses_isPrefix_runActions (as : List Action) (s : State) : s.responses <+: (runActions as s).responses :=
  runActions_keeps (P := fun t => s.responses <+: t.responses) (fun a t ht => ht.trans (responses_isPrefix_act a t)) as s
    ⟨[], List.append_nil _⟩

/-- From an empty queue, what a run without reset delivers is a first part of `Exec` of what it accepts. -/
theorem exists_responses_eq_take {as : List Action} {s : State} (h : ∀ a ∈ as, a ≠ .reset) (hq : s.pending = []) :
    ∃ k, (runActions as s).responses = s.responses ++ ((acceptedWords as s).map (execWord s.params)).take k := by
  obtain ⟨delivered, hd⟩ := responses_isPrefix_runActions as s
  have hall := eventualResponses_runActions as s h
  simp only [eventualResponses, ← hd, hq, List.map_nil, List.append_nil, List.append_assoc,
    List.append_cancel_left_eq] at hall
  exact ⟨delivered.length, by rw [← hd, ← hall, List.take_left]⟩

/-- Settles O48: each event keeps the eventual responses but for the word it accepts, whose `Exec` joins them at the end (R49). -/
theorem responsesInAcceptOrder : Obligations.ResponsesInAcceptOrder := by
  intro as s h
  constructor
  · have hall := eventualResponses_runActions as s h
    simpa [eventualResponses] using hall
  · exact exists_responses_eq_take h

end Sys2Proof.Machine

/-! The decoder by OP value (R60, R62, R65): what a word of each command decodes to, and that a reserved one is answered ILLEGAL. -/

namespace Sys2Proof.Machine

/-! ### The opcode of an OP value (R62, R65) -/

@[simp] theorem opcodeOf_opcodeBits (o : Opcode) : opcodeOf (opcodeBits o) = some o := by
  cases o <;> rfl

theorem opcodeOf_reserved {op : BitVec 4} (h : op.toNat = 0x0 ∨ op.toNat = 0xF) : opcodeOf op = none := by
  obtain h | h := h <;> simp [opcodeOf, h]

/-! ### What a word decodes to (R62, R65) -/

/-- "The OP field alone picks the command" (R62). -/
theorem decode_of_fieldOp_eq {w : Word} (o : Opcode) (h : (fieldOp w).toNat = (opcodeBits o).toNat) :
    decode w = .ok (instrOf o (fieldsOf w)) := by
  have hop : fieldOp w = opcodeBits o := BitVec.eq_of_toNat_eq h
  simp [decode, hop]

theorem decode_of_reserved {w : Word} (h : (fieldOp w).toNat = 0x0 ∨ (fieldOp w).toNat = 0xF) :
    decode w = .error (.reservedOpcode (fieldOp w)) := by
  simp [decode, opcodeOf_reserved h]

/-! ### The statements -/

/-- Settles O1: one clause for each of the 14 commands, in the order of their OP values, then the reserved ones. -/
theorem opcodeMap : Obligations.OpcodeMap :=
  fun _ => ⟨decode_of_fieldOp_eq .derive, decode_of_fieldOp_eq .enc, decode_of_fieldOp_eq .dec,
    decode_of_fieldOp_eq .permP10, decode_of_fieldOp_eq .permP8, decode_of_fieldOp_eq .permP4,
    decode_of_fieldOp_eq .permEP, decode_of_fieldOp_eq .permIP1, decode_of_fieldOp_eq .permIP2,
    decode_of_fieldOp_eq .rotl5, decode_of_fieldOp_eq .sbox1, decode_of_fieldOp_eq .sbox2,
    decode_of_fieldOp_eq .round, decode_of_fieldOp_eq .swap, decode_of_reserved⟩

/-- Settles O7: a reserved word does not decode, and the completion of such a word delivers ILLEGAL and no result (R202 a). -/
theorem stepAnswersReservedOpcode : Obligations.StepAnswersReservedOpcode := by
  intro s cmd rest hq hop
  rw [step_of_decode_error hq (decode_of_reserved hop), completeUndecoded_eq, responseWord_illegal]
  rfl

end Sys2Proof.Machine

/-! The bit permutation, rotation and S-box units on values (40_bit_units.md sections 1 and 2): wires, inverses, rotation, lookup. -/

namespace Sys2Proof.Machine

/-! ### The wires of a permutation table (R101) -/

/-- The input bit that a table wires to output bit `j`. -/
def sourceBit {wi wo : Nat} (T : PermTable wi wo) (j : Fin wo) : Nat := wi - T.get j.rev

theorem perm_getLsbD_fin {wi wo : Nat} (T : PermTable wi wo) (v : BitVec wi) (j : Fin wo) :
    (perm T v).getLsbD j = v.getLsbD (sourceBit T j) :=
  perm_getLsbD T v j j.isLt

/-- Only the wired input bits reach the output. -/
theorem perm_congr {wi wo : Nat} {T : PermTable wi wo} {u v : BitVec wi}
    (h : ∀ j : Fin wo, u.getLsbD (sourceBit T j) = v.getLsbD (sourceBit T j)) : perm T u = perm T v := by
  apply BitVec.eq_of_getLsbD_eq
  intro j hj
  calc (perm T u).getLsbD j
      = u.getLsbD (sourceBit T ⟨j, hj⟩) := perm_getLsbD_fin T u ⟨j, hj⟩
    _ = v.getLsbD (sourceBit T ⟨j, hj⟩) := h ⟨j, hj⟩
    _ = (perm T v).getLsbD j := (perm_getLsbD_fin T v ⟨j, hj⟩).symm

/-- A table that wires every input bit to some output loses nothing. -/
theorem perm_injective {wi wo : Nat} {T : PermTable wi wo} (h : ∀ i : Fin wi, ∃ j : Fin wo, sourceBit T j = i) :
    Function.Injective (perm T) := by
  intro u v huv
  apply BitVec.eq_of_getLsbD_eq
  intro i hi
  obtain ⟨j, hj⟩ := h ⟨i, hi⟩
  have hbit : (perm T u).getLsbD j = (perm T v).getLsbD j := by rw [huv]
  rwa [perm_getLsbD_fin, perm_getLsbD_fin, hj] at hbit

/-- Two tables undo each other where each wire of the one is led back by the other. -/
theorem perm_perm_eq_self {n : Nat} {T U : PermTable n n}
    (h : ∀ j : Fin n, ∃ k : Fin n, sourceBit U j = k ∧ sourceBit T k = j) (v : BitVec n) : perm U (perm T v) = v := by
  apply BitVec.eq_of_getLsbD_eq
  intro j hj
  obtain ⟨k, hout, hback⟩ := h ⟨j, hj⟩
  calc (perm U (perm T v)).getLsbD j
      = (perm T v).getLsbD (sourceBit U ⟨j, hj⟩) := perm_getLsbD_fin U (perm T v) ⟨j, hj⟩
    _ = v.getLsbD (sourceBit T k) := by rw [hout, perm_getLsbD_fin]
    _ = v.getLsbD j := by rw [hback]

/-- The ones of the output, counted on the input bits it is wired from. -/
theorem countP_perm {wi wo : Nat} (T : PermTable wi wo) (v : BitVec wi) :
    ((List.range wo).countP fun i => (perm T v).getLsbD i)
      = ((List.finRange wo).map (sourceBit T)).countP fun i => v.getLsbD i := by
  rw [← List.map_coe_finRange_eq_range, List.countP_map, List.countP_map]
  congr 1
  funext j
  exact perm_getLsbD_fin T v j

/-- P8 reads bits 0 to 7 only: key positions 1 and 2 do not reach its output (R109). -/
theorem perm_tableP8_congr {u v : BitVec 10} (h : u.extractLsb' 0 8 = v.extractLsb' 0 8) :
    perm tableP8 u = perm tableP8 v := by
  apply perm_congr
  intro j
  have hlow : sourceBit tableP8 j < 8 := by revert j; decide
  have hbit := congrArg (·.getLsbD (sourceBit tableP8 j)) h
  simpa [hlow] using hbit

theorem perm_tableP10_bijective : Function.Bijective (perm tableP10) :=
  Finite.injective_iff_bijective.mp (perm_injective (by decide))

theorem perm_tableIP2_tableIP1 (v : BitVec 8) : perm tableIP2 (perm tableIP1 v) = v :=
  perm_perm_eq_self (by decide) v

theorem perm_tableIP1_tableIP2 (v : BitVec 8) : perm tableIP1 (perm tableIP2 v) = v :=
  perm_perm_eq_self (by decide) v

/-- Each of the four input bits has two wires of EP, so each one of the input is two of the output (R123). -/
theorem countP_perm_tableEP (v : BitVec 4) :
    ((List.range 8).countP fun i => (perm tableEP v).getLsbD i) = 2 * (List.range 4).countP fun i => v.getLsbD i := by
  have htwice : ((List.finRange 8).map (sourceBit tableEP)).Perm (List.range 4 ++ List.range 4) := by decide
  rw [countP_perm, htwice.countP_eq, List.countP_append, two_mul]

/-! ### Rotation (R103) -/

theorem rotl5_eq_rotateLeft (h : BitVec 5) (n : Nat) : rotl5 h n = h.rotateLeft n := by
  simp only [rotl5]
  split
  · next hm => simp [BitVec.rotateLeft, BitVec.rotateLeftAux, hm, BitVec.ushiftRight_eq_zero]
  · rfl

theorem rotl5_mod_five (h : BitVec 5) (n : Nat) : rotl5 h n = rotl5 h (n % 5) := by
  simp [rotl5]

/-- Bit `i` moves up by `n`, and what leaves at the top re-enters at the bottom. -/
theorem rotl5_getLsbD (h : BitVec 5) (n : Nat) {i : Nat} (hi : i < 5) :
    (rotl5 h n).getLsbD ((i + n) % 5) = h.getLsbD i := by
  rw [rotl5_eq_rotateLeft, BitVec.getLsbD_rotateLeft]
  by_cases hwrap : i + n % 5 < 5
  · have hpos : (i + n) % 5 = i + n % 5 := by omega
    simp [hpos, hwrap]
  · have hpos : (i + n) % 5 = i + n % 5 - 5 := by omega
    have hlow : i + n % 5 - 5 < n % 5 := by omega
    have hsource : 5 - n % 5 + (i + n % 5 - 5) = i := by omega
    simp [hpos, hlow, hsource]

/-- Rotation leaves the two constant values alone, whatever the amount. -/
theorem rotl5_constant (n : Nat) : rotl5 0 n = 0 ∧ rotl5 0x1F n = 0x1F := by
  have hamounts : ∀ m < 5, rotl5 0 m = 0 ∧ rotl5 0x1F m = 0x1F := by decide
  rw [rotl5_mod_five 0, rotl5_mod_five 0x1F]
  exact hamounts _ (Nat.mod_lt n (by omega))

/-! ### Lookup (R107) -/

theorem sbox_le_three (S : SBoxTable) (x : BitVec 4) : (sbox S x).toNat ≤ 3 :=
  Nat.le_of_lt_succ (sbox S x).isLt

/-! ### The statements -/

/-- Settles O10: each output bit is the wire its table entry names (R101). -/
theorem permutationP10 : Obligations.PermutationP10 := by
  refine ⟨rfl, fun v => ?_, fun p hp1 hp10 => ?_⟩
  · exact ⟨perm_getLsbD_fin tableP10 v 9, perm_getLsbD_fin tableP10 v 8, perm_getLsbD_fin tableP10 v 7,
      perm_getLsbD_fin tableP10 v 6, perm_getLsbD_fin tableP10 v 5, perm_getLsbD_fin tableP10 v 4,
      perm_getLsbD_fin tableP10 v 3, perm_getLsbD_fin tableP10 v 2, perm_getLsbD_fin tableP10 v 1,
      perm_getLsbD_fin tableP10 v 0⟩
  · interval_cases p <;> rfl

/-- Settles O11: the wires of P8, none of which starts at bit 9 or 8. -/
theorem permutationP8 : Obligations.PermutationP8 := by
  refine ⟨rfl, fun v => ?_, fun _ _ h => perm_tableP8_congr h⟩
  exact ⟨perm_getLsbD_fin tableP8 v 7, perm_getLsbD_fin tableP8 v 6, perm_getLsbD_fin tableP8 v 5,
    perm_getLsbD_fin tableP8 v 4, perm_getLsbD_fin tableP8 v 3, perm_getLsbD_fin tableP8 v 2,
    perm_getLsbD_fin tableP8 v 1, perm_getLsbD_fin tableP8 v 0⟩

/-- Settles O12: the wires of P4; the source's check runs over the 16 sequences of four bits. -/
theorem permutationP4 : Obligations.PermutationP4 := by
  refine ⟨rfl, fun v => ?_, by decide⟩
  exact ⟨perm_getLsbD_fin tableP4 v 3, perm_getLsbD_fin tableP4 v 2, perm_getLsbD_fin tableP4 v 1,
    perm_getLsbD_fin tableP4 v 0⟩

/-- Settles O13: the wires of EP, two from each input position. -/
theorem expansionEP : Obligations.ExpansionEP := by
  refine ⟨rfl, fun v => ?_, fun p hp1 hp4 => ?_⟩
  · exact ⟨perm_getLsbD_fin tableEP v 7, perm_getLsbD_fin tableEP v 6, perm_getLsbD_fin tableEP v 5,
      perm_getLsbD_fin tableEP v 4, perm_getLsbD_fin tableEP v 3, perm_getLsbD_fin tableEP v 2,
      perm_getLsbD_fin tableEP v 1, perm_getLsbD_fin tableEP v 0⟩
  · interval_cases p <;> rfl

/-- Settles O14: the wires of IP1. -/
theorem permutationIP1 : Obligations.PermutationIP1 := by
  refine ⟨rfl, fun v => ?_⟩
  exact ⟨perm_getLsbD_fin tableIP1 v 7, perm_getLsbD_fin tableIP1 v 6, perm_getLsbD_fin tableIP1 v 5,
    perm_getLsbD_fin tableIP1 v 4, perm_getLsbD_fin tableIP1 v 3, perm_getLsbD_fin tableIP1 v 2,
    perm_getLsbD_fin tableIP1 v 1, perm_getLsbD_fin tableIP1 v 0⟩

/-- Settles O15: the wires of IP2, which lead each wire of IP1 back, and the other way round. -/
theorem permutationIP2 : Obligations.PermutationIP2 := by
  refine ⟨rfl, fun v => ?_, fun v => ⟨perm_tableIP2_tableIP1 v, perm_tableIP1_tableIP2 v⟩⟩
  exact ⟨perm_getLsbD_fin tableIP2 v 7, perm_getLsbD_fin tableIP2 v 6, perm_getLsbD_fin tableIP2 v 5,
    perm_getLsbD_fin tableIP2 v 4, perm_getLsbD_fin tableIP2 v 3, perm_getLsbD_fin tableIP2 v 2,
    perm_getLsbD_fin tableIP2 v 1, perm_getLsbD_fin tableIP2 v 0⟩

/-- Settles O16, by whether bit `i` wraps around; the rotation by 1 is read off the 32 values. -/
theorem leftRotationModuloFive : Obligations.LeftRotationModuloFive :=
  ⟨fun h n _ hi => rotl5_getLsbD h n hi, rotl5_mod_five, by decide⟩

/-- Settles O17: with the input written out, the selectors name one place of the table. -/
theorem sboxLookupSelectors : Obligations.SboxLookupSelectors := by
  intro a b c d e f g h i j k l m n o p
  and_intros <;> rfl

end Sys2Proof.Machine

/-! The commands of the bit units (40_bit_units.md section 3): what a unit-access command answers, and the statement of each. -/

namespace Sys2Proof.Machine

/-! ### The checks on a unit-access command (R69, R202, R203) -/

/-- A unit-access command that uses neither B nor C is ILLEGAL for any one of its four causes. -/
theorem illegalCause_of_oneOperand {p : Parameters} {op : Opcode} {rsv : BitVec 2} {b c : BitVec 8}
    (hop : isUnitAccess op = true) (hb : mustZeroB op = true) (hc : mustZeroC op = true)
    (h : p.unitAccess = false ∨ rsv ≠ 0 ∨ b ≠ 0 ∨ c ≠ 0) : illegalCause p op rsv b c :=
  h.imp (⟨hop, ·⟩) (Or.imp_right (Or.imp (⟨hb, ·⟩) (⟨hc, ·⟩)))

/-- With the units present and zeros where zeros must be, nothing is ILLEGAL. -/
theorem not_illegalCause {p : Parameters} {op : Opcode} {b c : BitVec 8} (hunit : p.unitAccess = true)
    (hb : mustZeroB op = true → b = 0) (hc : mustZeroC op = true → c = 0) : ¬ illegalCause p op 0 b c := by
  rintro (⟨-, habsent⟩ | hrsv | ⟨hmust, hne⟩ | ⟨hmust, hne⟩)
  · simp [hunit] at habsent
  · exact hrsv rfl
  · exact hne (hb hmust)
  · exact hne (hc hmust)

theorem widthError_of_unitAccess {op : Opcode} (h : isUnitAccess op = true) : widthError op = .size := by
  revert h
  cases op <;> decide

theorem inputWidth_le_ten (op : Opcode) : inputWidth op ≤ 10 := by
  cases op <;> decide

/-- An operand of the input's own width fits (R68). -/
theorem tooWide_setWidth {op : Opcode} {w : Nat} (h : inputWidth op = w) (v : BitVec w) :
    tooWide op (v.setWidth 10) = false := by
  rw [tooWide_eq_false_iff, h]
  exact toNat_setWidth_lt v

/-! ### What a command answers, by its status -/

theorem exec_of_status_illegal {i : Instr} {s : State} (h : statusOf s.params i = .illegal) :
    exec i s = .next { s with responses := s.responses ++ [0x10000000] } := by
  rw [exec_eq, h]; rfl

theorem exec_of_status_size {i : Instr} {s : State} (h : statusOf s.params i = .size) :
    exec i s = .next { s with responses := s.responses ++ [0x20000000] } := by
  rw [exec_eq, h]; rfl

/-- A result of at most 16 bits is delivered zero-extended (R70, R71). -/
theorem exec_of_status_ok {i : Instr} {s : State} {n : Nat} {x : BitVec n} (hn : n ≤ 16)
    (h : statusOf s.params i = .ok) (hx : resultOf s.params i = x.setWidth 16) :
    exec i s = .next { s with responses := s.responses ++ [x.setWidth 32] } := by
  rw [exec_eq, h, hx, responseWord_ok_setWidth hn]; rfl

/-! ### What a unit-access command answers -/

theorem exec_oneOperand_illegal (op : Opcode) {s : State} {rsv : BitVec 2} {a : BitVec 10} {b c : BitVec 8}
    (hop : isUnitAccess op = true) (hb : mustZeroB op = true) (hc : mustZeroC op = true)
    (h : s.params.unitAccess = false ∨ rsv ≠ 0 ∨ b ≠ 0 ∨ c ≠ 0) :
    exec (instrOf op ⟨rsv, a, b, c⟩) s = .next { s with responses := s.responses ++ [0x10000000] } := by
  apply exec_of_status_illegal
  rw [statusOf, instrOf_opcode, instrOf_fields]
  exact commandStatus_of_illegalCause a (illegalCause_of_oneOperand hop hb hc h)

theorem exec_unit_size (op : Opcode) {s : State} {a : BitVec 10} {b c : BitVec 8} (hop : isUnitAccess op = true)
    (hb : mustZeroB op = true → b = 0) (hc : mustZeroC op = true → c = 0) (hunit : s.params.unitAccess = true)
    (hwide : 2 ^ inputWidth op ≤ a.toNat) :
    exec (instrOf op ⟨0, a, b, c⟩) s = .next { s with responses := s.responses ++ [0x20000000] } := by
  apply exec_of_status_size
  rw [statusOf, instrOf_opcode, instrOf_fields,
    commandStatus_of_tooWide (not_illegalCause hunit hb hc) ((tooWide_iff op a).mpr hwide)]
  exact widthError_of_unitAccess hop

/-- A unit function `f` on an operand of the input's own width, which the core's narrowing of field A gives back (R100). -/
theorem exec_unit_ok (op : Opcode) {w n : Nat} (f : BitVec w → BitVec n) (v : BitVec w) {s : State} {b c : BitVec 8}
    (hb : mustZeroB op = true → b = 0) (hc : mustZeroC op = true → c = 0) (hn : n ≤ 16) (hw : inputWidth op = w)
    (hf : ∀ a, resultOf s.params (instrOf op ⟨0, a, b, c⟩) = (f (lowBits w a)).setWidth 16)
    (hunit : s.params.unitAccess = true) :
    exec (instrOf op ⟨0, v.setWidth 10, b, c⟩) s = .next { s with responses := s.responses ++ [(f v).setWidth 32] } := by
  apply exec_of_status_ok hn
  · rw [statusOf, instrOf_opcode, instrOf_fields]
    exact commandStatus_of_fits (not_illegalCause hunit hb hc) (tooWide_setWidth hw v)
  · rw [hf, lowBits_setWidth (hw ▸ inputWidth_le_ten op)]

/-- ROTL5 uses field C for its amount, so C is no cause of ILLEGAL (R126). -/
theorem exec_rotl5_illegal {s : State} {rsv : BitVec 2} {h : BitVec 10} {b n : BitVec 8}
    (hcause : s.params.unitAccess = false ∨ rsv ≠ 0 ∨ b ≠ 0) :
    exec (.rotl5 rsv h b n) s = .next { s with responses := s.responses ++ [0x10000000] } :=
  exec_of_status_illegal
    (commandStatus_of_illegalCause (op := .rotl5) h (hcause.imp (⟨rfl, ·⟩) (Or.imp_right fun hb => .inl ⟨rfl, hb⟩)))

/-- R120 to R125, R127 and R128 in common: a unit-access command of one operand answers its unit's value on a `w`-bit input, ILLEGAL
for any of the four causes, and SIZE for an input of more than `w` bits. -/
theorem oneOperand_answers (op : Opcode) {w n : Nat} (f : Parameters → BitVec w → BitVec n) (hop : isUnitAccess op = true)
    (hb : mustZeroB op = true) (hc : mustZeroC op = true) (hn : n ≤ 16) (hw : inputWidth op = w)
    (hf : ∀ p a, resultOf p (instrOf op ⟨0, a, 0, 0⟩) = (f p (lowBits w a)).setWidth 16) :
    (∀ (s : State) (v : BitVec w), s.params.unitAccess = true →
      exec (instrOf op ⟨0, v.setWidth 10, 0, 0⟩) s
        = .next { s with responses := s.responses ++ [(f s.params v).setWidth 32] }) ∧
    (∀ (s : State) (rsv : BitVec 2) (a : BitVec 10) (b c : BitVec 8),
      (s.params.unitAccess = false ∨ rsv ≠ 0 ∨ b ≠ 0 ∨ c ≠ 0) →
      exec (instrOf op ⟨rsv, a, b, c⟩) s = .next { s with responses := s.responses ++ [0x10000000] }) ∧
    (∀ (s : State) (a : BitVec 10), s.params.unitAccess = true → 2 ^ w ≤ a.toNat →
      exec (instrOf op ⟨0, a, 0, 0⟩) s = .next { s with responses := s.responses ++ [0x20000000] }) := by
  refine ⟨fun s v hunit => ?_, fun s rsv a b c hcause => ?_, fun s a hunit hwide => ?_⟩
  · exact exec_unit_ok op (f s.params) v (fun _ => rfl) (fun _ => rfl) hn hw (hf s.params) hunit
  · exact exec_oneOperand_illegal op hop hb hc hcause
  · exact exec_unit_size op hop (fun _ => rfl) (fun _ => rfl) hunit (hw ▸ hwide)

/-! ### The statements -/

/-- Settles O27; field A is the whole input, and a permutation of its ten wires is one to one, so onto. -/
theorem permP10Command : Obligations.PermP10Command := by
  obtain ⟨hok, hillegal, -⟩ :=
    oneOperand_answers .permP10 (fun _ => perm tableP10) rfl rfl rfl (by decide) rfl fun _ _ => rfl
  refine ⟨fun _ _ _ _ => rfl, fun s v hunit => ?_, hillegal, by decide, by decide, perm_tableP10_bijective,
    by decide, by decide⟩
  have hexec := hok s v hunit
  rwa [BitVec.setWidth_eq] at hexec

/-- Settles O28; two inputs that agree on bits 7 to 0 agree on every wire of P8. -/
theorem permP8Command : Obligations.PermP8Command := by
  obtain ⟨hok, hillegal, -⟩ :=
    oneOperand_answers .permP8 (fun _ => perm tableP8) rfl rfl rfl (by decide) rfl fun _ _ => rfl
  refine ⟨fun _ _ _ _ => rfl, fun s v hunit => ?_, hillegal, fun _ _ h => perm_tableP8_congr h,
    by decide, by decide, by decide, by decide, by decide, by decide⟩
  have hexec := hok s v hunit
  rwa [BitVec.setWidth_eq] at hexec

/-- Settles O29, by the three outcomes of a one-operand command and the values of R122. -/
theorem permP4Command : Obligations.PermP4Command := by
  obtain ⟨hok, hillegal, hsize⟩ :=
    oneOperand_answers .permP4 (fun _ => perm tableP4) rfl rfl rfl (by decide) rfl fun _ _ => rfl
  exact ⟨fun _ _ _ _ => rfl, hok, hillegal, hsize, by decide, by decide, by decide, by decide⟩

/-- Settles O30; the law of popcount is that EP has two wires from each input bit. -/
theorem permEPCommand : Obligations.PermEPCommand := by
  obtain ⟨hok, hillegal, hsize⟩ :=
    oneOperand_answers .permEP (fun _ => perm tableEP) rfl rfl rfl (by decide) rfl fun _ _ => rfl
  exact ⟨fun _ _ _ _ => rfl, hok, hillegal, hsize, countP_perm_tableEP, by decide, by decide, by decide,
    by decide⟩

/-- Settles O31, by the three outcomes of a one-operand command and the values of R124. -/
theorem permIP1Command : Obligations.PermIP1Command := by
  obtain ⟨hok, hillegal, hsize⟩ :=
    oneOperand_answers .permIP1 (fun _ => perm tableIP1) rfl rfl rfl (by decide) rfl fun _ _ => rfl
  exact ⟨fun _ _ _ _ => rfl, hok, hillegal, hsize, by decide, by decide, by decide, by decide⟩

/-- Settles O32; IP2 leads each wire of IP1 back. -/
theorem permIP2Command : Obligations.PermIP2Command := by
  obtain ⟨hok, hillegal, hsize⟩ :=
    oneOperand_answers .permIP2 (fun _ => perm tableIP2) rfl rfl rfl (by decide) rfl fun _ _ => rfl
  exact ⟨fun _ _ _ _ => rfl, hok, hillegal, hsize, perm_tableIP2_tableIP1, by decide, by decide⟩

/-- Settles O33: field C is free, and the amount counts modulo 5, so no amount is an error. -/
theorem rotl5Command : Obligations.Rotl5Command := by
  have hfree {n : BitVec 8} (hmust : mustZeroC .rotl5 = true) : n = 0 := absurd hmust (by decide)
  refine ⟨fun _ _ _ _ => rfl, fun s h n hunit => ?_, fun s rsv h b n hcause => exec_rotl5_illegal hcause,
    fun s h n hunit hwide => ?_, fun h => ?_, rotl5_constant, by decide, by decide⟩
  · exact exec_unit_ok .rotl5 (rotl5 · n.toNat) h (fun _ => rfl) hfree (by decide) rfl (fun _ => rfl) hunit
  · exact exec_unit_size .rotl5 rfl (fun _ => rfl) hfree hunit hwide
  · exact ⟨rfl, rotl5_mod_five h 5, rotl5_mod_five h 7, rotl5_mod_five h 255⟩

/-- Settles O34; the looked-up table is the parameter SBOX1 and no other. -/
theorem sbox1Command : Obligations.Sbox1Command := by
  obtain ⟨hok, hillegal, hsize⟩ :=
    oneOperand_answers .sbox1 (fun p => sbox p.sbox1) rfl rfl rfl (by decide) rfl fun _ _ => rfl
  exact ⟨fun _ _ _ _ => rfl, hok, hillegal, hsize, sbox_le_three, by decide, by decide⟩

/-- Settles O35; the looked-up table is the parameter SBOX2 and no other. -/
theorem sbox2Command : Obligations.Sbox2Command := by
  obtain ⟨hok, hillegal, hsize⟩ :=
    oneOperand_answers .sbox2 (fun p => sbox p.sbox2) rfl rfl rfl (by decide) rfl fun _ _ => rfl
  exact ⟨fun _ _ _ _ => rfl, hok, hillegal, hsize, sbox_le_three, by decide, by decide⟩

end Sys2Proof.Machine

/-! The key schedule as one wiring of the key (41_key_schedule.md, R143), and the command DERIVE (R142). -/

namespace Sys2Proof.Machine

/-! ### Rotating both halves of a 10-bit value (R102, R103) -/

/-- Bit `j` of a rotated value comes from `n` places below it, counted modulo 5. -/
theorem rotl5_getLsbD_source (h : BitVec 5) (n : Nat) {j : Nat} (hj : j < 5) :
    (rotl5 h n).getLsbD j = h.getLsbD ((j + 4 * n) % 5) := by
  have hback : ((j + 4 * n) % 5 + n) % 5 = j := by omega
  rw [← rotl5_getLsbD h n (Nat.mod_lt _ (by omega)), hback]

theorem rotl5_rotl5 (h : BitVec 5) (m n : Nat) : rotl5 (rotl5 h m) n = rotl5 h (m + n) := by
  apply BitVec.eq_of_getLsbD_eq
  intro j hj
  have hsource : ((j + 4 * n) % 5 + 4 * m) % 5 = (j + 4 * (m + n)) % 5 := by omega
  rw [rotl5_getLsbD_source _ n hj, rotl5_getLsbD_source _ m (Nat.mod_lt _ (by omega)), rotl5_getLsbD_source _ _ hj,
    hsource]

/-- Each half of a 10-bit value rotated left by the same amount (R141). -/
def rotateHalves (v : BitVec 10) (n : Nat) : BitVec 10 :=
  rotl5 (leftHalf10 v) n ++ rotl5 (rightHalf10 v) n

/-- The input bit that `rotateHalves` wires to output bit `j`: one of the same half. -/
def rotateHalvesSource (n : Nat) (j : Fin 10) : Fin 10 :=
  ⟨(if j.val < 5 then 0 else 5) + (j + 4 * n) % 5, by split <;> omega⟩

theorem rotateHalves_getLsbD (v : BitVec 10) (n : Nat) (j : Fin 10) :
    (rotateHalves v n).getLsbD j = v.getLsbD (rotateHalvesSource n j) := by
  obtain ⟨j, hj⟩ := j
  have hmod : (j + 4 * n) % 5 < 5 := Nat.mod_lt _ (by omega)
  rw [rotateHalves, BitVec.getLsbD_append]
  by_cases hright : j < 5
  · rw [if_pos hright, rotl5_getLsbD_source _ n hright]
    simp [rightHalf10, rotateHalvesSource, hright, hmod]
  · have hsame : (j - 5 + 4 * n) % 5 = (j + 4 * n) % 5 := by omega
    rw [if_neg hright, rotl5_getLsbD_source _ n (by omega), hsame]
    simp [leftHalf10, rotateHalvesSource, hright, hmod]

/-! ### The two subkeys as wirings of the key (R141, R143) -/

/-- The rotations by 1 and by 2 before K2 are one by 3 (R141). -/
theorem keySched_eq_rotateHalves (key : BitVec 10) :
    keySched key
      = (perm tableP8 (rotateHalves (perm tableP10 key) 1), perm tableP8 (rotateHalves (perm tableP10 key) 3)) := by
  simp only [keySched, rotl5_rotl5, rotateHalves]

/-- P10, the rotation of the halves and P8 in a row are the wiring `W`, where each wire of `W` is their three wires in a row. -/
theorem perm_tableP8_rotateHalves_tableP10 {n : Nat} {W : PermTable 10 8}
    (h : ∀ j : Fin 8, ∃ k : Fin 10,
      sourceBit tableP8 j = k ∧ sourceBit tableP10 (rotateHalvesSource n k) = sourceBit W j) (key : BitVec 10) :
    perm tableP8 (rotateHalves (perm tableP10 key) n) = perm W key := by
  apply BitVec.eq_of_getLsbD_eq
  intro j hj
  obtain ⟨k, hP8, hwire⟩ := h ⟨j, hj⟩
  calc (perm tableP8 (rotateHalves (perm tableP10 key) n)).getLsbD j
      = (rotateHalves (perm tableP10 key) n).getLsbD (sourceBit tableP8 ⟨j, hj⟩) := perm_getLsbD_fin tableP8 _ ⟨j, hj⟩
    _ = (perm tableP10 key).getLsbD (rotateHalvesSource n k) := by rw [hP8, rotateHalves_getLsbD]
    _ = key.getLsbD (sourceBit W ⟨j, hj⟩) := by rw [perm_getLsbD_fin, hwire]
    _ = (perm W key).getLsbD j := (perm_getLsbD_fin W key ⟨j, hj⟩).symm

/-- The 1-based key positions of K1, in output order: key bits 9, 3, 1, 6, 2, 7, 0, 4 (R143). -/
def tableK1 : PermTable 10 8 := #v[1, 7, 9, 4, 8, 3, 10, 6]

/-- The 1-based key positions of K2, in output order: key bits 2, 7, 4, 5, 0, 8, 1, 9 (R143). -/
def tableK2 : PermTable 10 8 := #v[8, 3, 6, 5, 10, 2, 9, 1]

theorem keySched_fst (key : BitVec 10) : (keySched key).1 = perm tableK1 key := by
  rw [keySched_eq_rotateHalves]
  exact perm_tableP8_rotateHalves_tableP10 (by decide) key

theorem keySched_snd (key : BitVec 10) : (keySched key).2 = perm tableK2 key := by
  rw [keySched_eq_rotateHalves]
  exact perm_tableP8_rotateHalves_tableP10 (by decide) key

/-- Two input bits that no wire of the table starts at do not reach the output. -/
theorem perm_congr_of_forall_ne {wi wo : Nat} {T : PermTable wi wo} {m n : Nat} {u v : BitVec wi}
    (hT : ∀ j, sourceBit T j ≠ m ∧ sourceBit T j ≠ n) (h : ∀ i, i ≠ m → i ≠ n → u.getLsbD i = v.getLsbD i) :
    perm T u = perm T v :=
  perm_congr fun j => h _ (hT j).1 (hT j).2

/-- An 8-output wiring written out, from the leftmost bit: output bit 7 first. -/
theorem perm_eq_append {wi : Nat} (T : PermTable wi 8) (v : BitVec wi) :
    perm T v = v.extractLsb' (sourceBit T 7) 1 ++ v.extractLsb' (sourceBit T 6) 1 ++ v.extractLsb' (sourceBit T 5) 1 ++
      v.extractLsb' (sourceBit T 4) 1 ++ v.extractLsb' (sourceBit T 3) 1 ++ v.extractLsb' (sourceBit T 2) 1 ++
      v.extractLsb' (sourceBit T 1) 1 ++ v.extractLsb' (sourceBit T 0) 1 := by
  apply BitVec.eq_of_getLsbD_eq
  intro j hj
  rw [perm_getLsbD_fin T v ⟨j, hj⟩]
  simp only [BitVec.getLsbD_append]
  interval_cases j <;> simp

/-- Settles O18: each subkey is one wiring of the key, whose wires R143 lists; bits 5 and 8 start no wire of K1, bits 3 and 6 none of
K2, and a wiring commutes with exclusive-or. -/
theorem keyScheduleDirectForm : Obligations.KeyScheduleDirectForm := by
  simp only [Obligations.KeyScheduleDirectForm, keySched_fst, keySched_snd]
  refine ⟨fun key => ⟨perm_eq_append tableK1 key, perm_eq_append tableK2 key⟩, fun a b h => ?_, fun a b h => ?_,
    fun a b => ⟨perm_xor tableK1 a b, perm_xor tableK2 a b⟩⟩
  · exact perm_congr_of_forall_ne (by decide) h
  · exact perm_congr_of_forall_ne (by decide) h

/-! ### DERIVE (R142) -/

/-- A primary command, opcodes 0x1 to 0x3, is not ILLEGAL with zeros where zeros must be, whatever UNIT_ACCESS is (R63). -/
theorem not_illegalCause_of_primary {p : Parameters} {op : Opcode} {b c : BitVec 8} (hop : isUnitAccess op = false)
    (hb : mustZeroB op = true → b = 0) (hc : mustZeroC op = true → c = 0) : ¬ illegalCause p op 0 b c := by
  rintro (⟨hunit, -⟩ | hrsv | ⟨hmust, hne⟩ | ⟨hmust, hne⟩)
  · simp [hop] at hunit
  · exact hrsv rfl
  · exact hne (hb hmust)
  · exact hne (hc hmust)

/-- The key fills field A, so no key is too wide and the 16 bits of the two subkeys are the result. -/
theorem exec_derive_ok (s : State) (key : BitVec 10) :
    exec (.derive 0 key 0 0) s
      = .next { s with responses := s.responses ++ [((keySched key).1 ++ (keySched key).2).setWidth 32] } := by
  apply exec_of_status_ok (by decide)
  · exact commandStatus_of_fits (not_illegalCause_of_primary (op := .derive) rfl (fun _ => rfl) fun _ => rfl)
      (tooWide_of_width_ten rfl key)
  · simp [resultOf]

theorem exec_derive_illegal (s : State) {rsv : BitVec 2} (key : BitVec 10) {b c : BitVec 8}
    (h : rsv ≠ 0 ∨ b ≠ 0 ∨ c ≠ 0) :
    exec (.derive rsv key b c) s = .next { s with responses := s.responses ++ [0x10000000] } :=
  exec_of_status_illegal
    (commandStatus_of_illegalCause (op := .derive) key (.inr (h.imp_right (Or.imp (⟨rfl, ·⟩) (⟨rfl, ·⟩)))))

/-- Encryption under equal subkeys is decryption, since only their order differs (R171). -/
theorem encrypt_eq_decrypt_of_eq (S1 S2 : SBoxTable) (code : BitVec 8) {k1 k2 : BitVec 8} (h : k1 = k2) :
    encrypt S1 S2 code k1 k2 = decrypt S1 S2 code k1 k2 := by
  rw [decrypt, h]

/-- Settles O24: DERIVE has no unit to be absent and no key too wide, so its zero fields alone decide; the keys of all zeros and all
ones have equal subkeys. -/
theorem deriveCommand : Obligations.DeriveCommand := by
  have hzeros : keySched 0 = (0, 0) := by decide
  have hones : keySched 1023 = (0xFF, 0xFF) := by decide
  refine ⟨fun _ _ _ _ => rfl, exec_derive_ok, fun s _ key _ _ h => exec_derive_illegal s key h, hzeros, hones, ?_,
    by decide, by decide⟩
  rintro S1 S2 key code (rfl | rfl)
  · exact encrypt_eq_decrypt_of_eq S1 S2 code (by rw [hzeros])
  · exact encrypt_eq_decrypt_of_eq S1 S2 code (by rw [hones])

end Sys2Proof.Machine

/-! The Feistel round engine (42_round_engine.md): the laws of the round and of the half-swap, and the commands ROUND and SWAP. -/

namespace Sys2Proof.Machine

/-! ### The round by halves (R151, R152) -/

@[simp] theorem leftHalf_feistelRound (S1 S2 : SBoxTable) (v k : BitVec 8) :
    leftHalf (feistelRound S1 S2 v k) = leftHalf v ^^^ roundF S1 S2 (rightHalf v) k :=
  leftHalf_append _ _

/-- "The right half passes through unchanged" (R152). -/
@[simp] theorem rightHalf_feistelRound (S1 S2 : SBoxTable) (v k : BitVec 8) :
    rightHalf (feistelRound S1 S2 v k) = rightHalf v :=
  rightHalf_append _ _

/-- A round undoes itself: both rounds compute the same F, from the same right half, and `L xor F xor F = L` (R152). -/
theorem feistelRound_feistelRound (S1 S2 : SBoxTable) (v k : BitVec 8) :
    feistelRound S1 S2 (feistelRound S1 S2 v k) k = v := by
  calc feistelRound S1 S2 (feistelRound S1 S2 v k) k
      = (leftHalf v ^^^ roundF S1 S2 (rightHalf v) k ^^^ roundF S1 S2 (rightHalf v) k) ++ rightHalf v := by
        rw [feistelRound, leftHalf_feistelRound, rightHalf_feistelRound]
    _ = leftHalf v ++ rightHalf v := by rw [BitVec.xor_assoc, BitVec.xor_self, BitVec.xor_zero]
    _ = v := halves_append v

/-! ### The half-swap (R153) -/

@[simp] theorem halfSwap_append (l r : BitVec 4) : halfSwap (l ++ r) = r ++ l := by
  rw [halfSwap, leftHalf_append, rightHalf_append]

theorem halfSwap_halfSwap (v : BitVec 8) : halfSwap (halfSwap v) = v :=
  (halfSwap_append _ _).trans (halves_append v)

/-! ### ROUND (R160) -/

/-- ROUND uses field B for its subkey, so B is no cause of ILLEGAL. -/
theorem exec_round_illegal {s : State} {rsv : BitVec 2} {v : BitVec 10} {k c : BitVec 8}
    (h : s.params.unitAccess = false ∨ rsv ≠ 0 ∨ c ≠ 0) :
    exec (.round rsv v k c) s = .next { s with responses := s.responses ++ [0x10000000] } :=
  exec_of_status_illegal
    (commandStatus_of_illegalCause (op := .round) v (h.imp (⟨rfl, ·⟩) (Or.imp_right fun hc => .inr ⟨rfl, hc⟩)))

/-- At subkey 0 too the round depends on the tables: with the reference tables exchanged, block 0 has another round. -/
theorem feistelRound_subkey_zero_ne :
    feistelRound referenceSbox1 referenceSbox2 0 0 ≠ feistelRound referenceSbox2 referenceSbox1 0 0 := by
  decide

/-! ### The statements -/

/-- Settles O20: the exchange is the definition, and exchanging the halves twice leaves them in order. -/
theorem halfSwapExchangesHalves : Obligations.HalfSwapExchangesHalves :=
  fun v => ⟨rfl, halfSwap_halfSwap v⟩

/-- Settles O19, by the two halves of a round. -/
theorem feistelRoundLaws : Obligations.FeistelRoundLaws :=
  fun S1 S2 v k => ⟨feistelRound_feistelRound S1 S2 v k, rightHalf_feistelRound S1 S2 v k⟩

/-- Settles O36: field B is free for the subkey, and the corner cases are the laws of R152. -/
theorem roundCommand : Obligations.RoundCommand := by
  have hfree {k : BitVec 8} (hmust : mustZeroB .round = true) : k = 0 := absurd hmust (by decide)
  refine ⟨fun _ _ _ _ => rfl, fun s v k hunit => ?_, fun s rsv v k c hcause => exec_round_illegal hcause,
    fun s v k hunit hwide => ?_, fun S1 S2 v k => ?_, ⟨_, _, _, _, _, feistelRound_subkey_zero_ne⟩,
    by decide, by decide⟩
  · exact exec_unit_ok .round (feistelRound s.params.sbox1 s.params.sbox2 · k) v hfree (fun _ => rfl) (by decide) rfl
      (fun _ => rfl) hunit
  · exact exec_unit_size .round rfl hfree (fun _ => rfl) hunit hwide
  · exact ⟨rightHalf_feistelRound S1 S2 v k, feistelRound_feistelRound S1 S2 v k⟩

/-- Settles O37, by the three outcomes of a one-operand command and the laws of R153. -/
theorem swapCommand : Obligations.SwapCommand := by
  obtain ⟨hok, hillegal, hsize⟩ :=
    oneOperand_answers .swap (fun _ => halfSwap) rfl rfl rfl (by decide) rfl fun _ _ => rfl
  exact ⟨fun _ _ _ _ => rfl, hok, hillegal, hsize, fun h => halfSwap_append h h, by decide, by decide,
    halfSwap_halfSwap, by decide, by decide⟩

end Sys2Proof.Machine

/-! The cipher pipeline (43_cipher_pipeline.md): the laws of encryption, the commands ENC and DEC, and messages of symbols. -/

namespace Sys2Proof.Machine

/-! ### The laws (R174 to R176) -/

/-- Each unit of decryption undoes the unit of encryption that it meets, from the middle outwards: IP1 after IP2, the round of K2,
the half-swap, the round of K1, IP2 after IP1 (R174). -/
theorem decrypt_encrypt (S1 S2 : SBoxTable) (c k1 k2 : BitVec 8) : decrypt S1 S2 (encrypt S1 S2 c k1 k2) k1 k2 = c := by
  simp only [decrypt, encrypt]
  rw [perm_tableIP1_tableIP2, feistelRound_feistelRound, halfSwap_halfSwap, feistelRound_feistelRound,
    perm_tableIP2_tableIP1]

/-- Decryption is encryption with the subkeys exchanged (R171), so this is the round trip for the exchanged subkeys. -/
theorem encrypt_decrypt (S1 S2 : SBoxTable) (c k1 k2 : BitVec 8) : encrypt S1 S2 (decrypt S1 S2 c k1 k2) k1 k2 = c :=
  decrypt_encrypt S1 S2 c k2 k1

/-- Settles O21: the round trip asks nothing of the subkeys, so it holds for those of a master key too. -/
theorem decryptUndoesEncrypt : Obligations.DecryptUndoesEncrypt :=
  ⟨decrypt_encrypt, fun S1 S2 _ c => decrypt_encrypt S1 S2 c _ _⟩

/-- Settles O22: the inverse on the left makes encryption one to one, the inverse on the right makes it onto. -/
theorem encryptIsBijective : Obligations.EncryptIsBijective := by
  intro S1 S2 k1 k2
  have hleft : Function.LeftInverse (decrypt S1 S2 · k1 k2) (encrypt S1 S2 · k1 k2) := (decrypt_encrypt S1 S2 · k1 k2)
  have hright : Function.RightInverse (decrypt S1 S2 · k1 k2) (encrypt S1 S2 · k1 k2) := (encrypt_decrypt S1 S2 · k1 k2)
  exact ⟨⟨hleft.injective, hright.surjective⟩, hleft, hright⟩

/-- Settles O23: with equal subkeys the second encryption is a decryption (R171), which undoes the first. -/
theorem equalSubkeysInvolution : Obligations.EqualSubkeysInvolution := by
  refine ⟨fun S1 S2 c k1 k2 h => ?_, by decide, by decide⟩
  have hagree (x : BitVec 8) : encrypt S1 S2 x k1 k2 = decrypt S1 S2 x k1 k2 := encrypt_eq_decrypt_of_eq S1 S2 x h
  exact ⟨hagree c, (hagree _).trans (decrypt_encrypt S1 S2 c k1 k2)⟩

/-- A code is encrypted to itself where the subkeys are equal and its first round leaves two equal halves: the half-swap then does
nothing, and the second round undoes the first. -/
theorem encrypt_eq_self {S1 S2 : SBoxTable} {c k : BitVec 8}
    (h : halfSwap (feistelRound S1 S2 (perm tableIP1 c) k) = feistelRound S1 S2 (perm tableIP1 c) k) :
    encrypt S1 S2 c k k = c := by
  simp only [encrypt]
  rw [h, feistelRound_feistelRound, perm_tableIP2_tableIP1]

/-! ### ENC and DEC (R172, R173) -/

/-- RSV is the only field of ENC that must be zero: B and C hold the subkeys. -/
theorem not_illegalCause_enc (p : Parameters) (k1 k2 : BitVec 8) : ¬ illegalCause p .enc 0 k1 k2 :=
  not_illegalCause_of_primary rfl nofun nofun

theorem statusOf_enc_ok (p : Parameters) (code k1 k2 : BitVec 8) : statusOf p (.enc 0 (code.setWidth 10) k1 k2) = .ok :=
  commandStatus_of_fits (not_illegalCause_enc p k1 k2) (tooWide_setWidth (op := .enc) (w := 8) rfl code)

theorem statusOf_enc_range (p : Parameters) {code : BitVec 10} (k1 k2 : BitVec 8) (h : 256 ≤ code.toNat) :
    statusOf p (.enc 0 code k1 k2) = .range :=
  commandStatus_of_tooWide (not_illegalCause_enc p k1 k2) ((tooWide_iff .enc code).mpr h)

theorem resultOf_enc (p : Parameters) (code k1 k2 : BitVec 8) :
    resultOf p (.enc 0 (code.setWidth 10) k1 k2) = (encrypt p.sbox1 p.sbox2 code k1 k2).setWidth 16 := by
  rw [resultOf, lowBits_setWidth (by decide)]

theorem exec_enc_ok (s : State) (code k1 k2 : BitVec 8) :
    exec (.enc 0 (code.setWidth 10) k1 k2) s
      = .next { s with responses := s.responses ++ [(encrypt s.params.sbox1 s.params.sbox2 code k1 k2).setWidth 32] } :=
  exec_of_status_ok (by decide) (statusOf_enc_ok s.params code k1 k2) (resultOf_enc s.params code k1 k2)

theorem exec_enc_illegal (s : State) {rsv : BitVec 2} (code : BitVec 10) (k1 k2 : BitVec 8) (h : rsv ≠ 0) :
    exec (.enc rsv code k1 k2) s = .next { s with responses := s.responses ++ [0x10000000] } :=
  exec_of_status_illegal (commandStatus_of_illegalCause (op := .enc) code (.inr (.inl h)))

theorem exec_enc_range (s : State) {code : BitVec 10} (k1 k2 : BitVec 8) (h : 256 ≤ code.toNat) :
    exec (.enc 0 code k1 k2) s = .next { s with responses := s.responses ++ [0x30000000] } := by
  rw [exec_eq, statusOf_enc_range s.params k1 k2 h]; rfl

/-- The checks of DEC are those of ENC, and neither reads the subkeys in B and C. -/
theorem statusOf_dec (p : Parameters) (rsv : BitVec 2) (code : BitVec 10) (k1 k2 : BitVec 8) :
    statusOf p (.dec rsv code k1 k2) = statusOf p (.enc rsv code k2 k1) :=
  rfl

/-- RES of DEC "equals `zext_16(Encrypt(A[7:0], C, B))`" (R173). -/
theorem resultOf_dec (p : Parameters) (rsv : BitVec 2) (code : BitVec 10) (k1 k2 : BitVec 8) :
    resultOf p (.dec rsv code k1 k2) = resultOf p (.enc rsv code k2 k1) :=
  rfl

/-- DEC is ENC with the subkey fields exchanged, whatever the fields hold, so in its errors too. -/
theorem exec_dec (s : State) (rsv : BitVec 2) (code : BitVec 10) (k1 k2 : BitVec 8) :
    exec (.dec rsv code k1 k2) s = exec (.enc rsv code k2 k1) s := by
  rw [exec_eq, exec_eq, statusOf_dec, resultOf_dec]

/-- The example of R172, one round at a time. -/
theorem encrypt_reference_example : encrypt referenceSbox1 referenceSbox2 97 0xE5 0x63 = 0x28 := by
  have hround1 : feistelRound referenceSbox1 referenceSbox2 (perm tableIP1 97) 0xE5 = 0x24 := by decide
  have hround2 : feistelRound referenceSbox1 referenceSbox2 (halfSwap 0x24) 0x63 = 0x22 := by decide
  simp only [encrypt, hround1, hround2]
  decide

/-- Settles O25: UNIT_ACCESS, B and C are no cause of an error, so RSV and the width of the code alone decide; with the reference
tables and master key 0, code 7 is encrypted to itself. -/
theorem encCommand : Obligations.EncCommand := by
  have hzeros : keySched 0 = (0, 0) := by decide
  refine ⟨fun _ _ _ _ => rfl, exec_enc_ok, fun s _ code k1 k2 h => exec_enc_illegal s code k1 k2 h,
    fun s _ k1 k2 h => exec_enc_range s k1 k2 h, fun S1 S2 code _ => encrypt_eq_decrypt_of_eq S1 S2 code rfl,
    ⟨referenceSbox1, referenceSbox2, 0, 7, ?_⟩, by decide, encrypt_reference_example⟩
  rw [hzeros]
  exact encrypt_eq_self (by decide)

/-- Settles O26: each clause is ENC's with the subkeys exchanged, and the example decrypts the one of ENC. -/
theorem decCommand : Obligations.DecCommand := by
  refine ⟨fun _ _ _ _ => rfl, fun s code k1 k2 => ?_, fun s rsv code k1 k2 h => ?_, fun s code k1 k2 h => ?_,
    fun s code k1 k2 => exec_dec s 0 _ k2 k1, fun _ _ _ _ _ => rfl, by decide, ?_⟩
  · rw [exec_dec, exec_enc_ok]
  · rw [exec_dec, exec_enc_illegal s code k2 k1 h]
  · rw [exec_dec, exec_enc_range s k2 k1 h]
  · exact encrypt_reference_example ▸ decrypt_encrypt referenceSbox1 referenceSbox2 97 0xE5 0x63

/-! ### Messages (R177) -/

/-- The decoder gives back the command that a word encodes, whatever its fields hold (R60, R62). -/
theorem decode_encode (i : Instr) : decode (encode i) = .ok i := by
  obtain ⟨hop, hfields⟩ := Laws.EncodedFields.fields_of_wordOf (opcodeBits i.opcode) i.fields
  rw [encode, decode_of_fieldOp_eq i.opcode (congrArg BitVec.toNat hop), hfields]
  cases i <;> rfl

theorem answer_encode (p : Parameters) (i : Instr) : answer p (encode i) = responseWord (statusOf p i) (resultOf p i) :=
  answer_of_decode_ok p (decode_encode i)

theorem answer_encode_enc (p : Parameters) (code k1 k2 : BitVec 8) :
    answer p (encode (.enc 0 (code.setWidth 10) k1 k2)) = (encrypt p.sbox1 p.sbox2 code k1 k2).setWidth 32 := by
  rw [answer_encode, statusOf_enc_ok, resultOf_enc, responseWord_ok_setWidth (by decide)]

theorem answer_encode_dec (p : Parameters) (code k1 k2 : BitVec 8) :
    answer p (encode (.dec 0 (code.setWidth 10) k1 k2)) = (decrypt p.sbox1 p.sbox2 code k1 k2).setWidth 32 := by
  rw [answer_encode, statusOf_dec, resultOf_dec, ← answer_encode, answer_encode_enc, decrypt]

/-- No chaining: the answers to a message are those to its symbols, each on its own. -/
theorem map_answer_encryptMessage (p : Parameters) (k1 k2 : BitVec 8) (m : List (BitVec 8)) :
    (encryptMessage k1 k2 m).map (answer p) = m.map fun c => (encrypt p.sbox1 p.sbox2 c k1 k2).setWidth 32 := by
  rw [encryptMessage, List.map_map]
  exact List.map_congr_left fun c _ => answer_encode_enc p c k1 k2

theorem map_answer_decryptMessage (p : Parameters) (k1 k2 : BitVec 8) (m : List (BitVec 8)) :
    (decryptMessage k1 k2 m).map (answer p) = m.map fun c => (decrypt p.sbox1 p.sbox2 c k1 k2).setWidth 32 := by
  rw [decryptMessage, List.map_map]
  exact List.map_congr_left fun c _ => answer_encode_dec p c k1 k2

/-- As many completions as commands are pending answer them all, in order, and empty the queue (R25). -/
theorem runActions_replicate_complete {s : State} {cmds : List Word} (h : s.pending = cmds) :
    runActions (List.replicate cmds.length .complete) s
      = { s with pending := [], responses := s.responses ++ cmds.map (answer s.params) } := by
  induction cmds generalizing s with
  | nil =>
    obtain ⟨pending, responses, params⟩ := s
    obtain rfl : pending = [] := h
    simp [runActions]
  | cons cmd rest ih =>
    rw [List.length_cons, List.replicate_succ, runActions, act_complete_of_next (step_of_pending_cons h), ih rfl]
    simp [deliver]

/-- Settles O53: the completions drain the queue, and each answer is that of one symbol; decryption undoes each encryption. -/
theorem messageEncryptsSymbolBySymbol : Obligations.MessageEncryptsSymbolBySymbol := by
  refine ⟨fun s k1 k2 m h => ?_, fun s k1 k2 m h => ?_⟩
  · have hrun := runActions_replicate_complete h
    rwa [map_answer_encryptMessage, encryptMessage, List.length_map] at hrun
  · have hrun := runActions_replicate_complete h
    rw [map_answer_decryptMessage, decryptMessage, List.length_map, List.length_map, List.map_map] at hrun
    simpa only [Function.comp_def, decrypt_encrypt] using hrun

end Sys2Proof.Machine

/-! The response of every word, by the rules of 60_exceptions.md: the error causes on the bits of a word, the priority of
statuses, and cores that share nothing. -/

namespace Sys2Proof.Machine

/-! ### `Exec` at every step (R210) -/

/-- Settles O41: the step delivers the answer of decode, checks and meaning, and that answer is `Exec` of the word. -/
theorem stepDeliversExec : Obligations.StepDeliversExec := by
  intro s cmd rest hq
  rw [step_of_pending_cons hq, answer_eq_execWord]
  rfl

/-! ### The error causes on the bits of a word (R202, R203) -/

theorem opcodeBits_mem_mustZeroB_iff (o : Opcode) :
    (opcodeBits o).toNat ∈ [0x1, 0x4, 0x5, 0x6, 0x7, 0x8, 0x9, 0xA, 0xB, 0xC, 0xE] ↔ mustZeroB o = true := by
  cases o <;> decide

theorem opcodeBits_mem_mustZeroC_iff (o : Opcode) :
    (opcodeBits o).toNat ∈ [0x1, 0x4, 0x5, 0x6, 0x7, 0x8, 0x9, 0xB, 0xC, 0xD, 0xE] ↔ mustZeroC o = true := by
  cases o <;> decide

theorem illegalCommand_of_reserved {cmd : Word} (p : Parameters) (h : fieldOp cmd = 0x0 ∨ fieldOp cmd = 0xF) :
    IllegalCommand p cmd :=
  .inl (h.imp (congrArg BitVec.toNat) (congrArg BitVec.toNat))

/-- In a word of an assigned opcode the causes of ILLEGAL are (b), (c) and (d) of R202. -/
theorem illegalCommand_iff_illegalCause {cmd : Word} {o : Opcode} (p : Parameters) (h : fieldOp cmd = opcodeBits o) :
    IllegalCommand p cmd ↔ illegalCause p o (fieldRsv cmd) (fieldB cmd) (fieldC cmd) := by
  have hop : cmd.extractLsb' 28 4 = opcodeBits o := h
  obtain ⟨h0, hF⟩ := opcodeBits_not_reserved o
  rw [IllegalCommand, hop, ← and_assoc, opcodeBits_unitAccess_iff, opcodeBits_mem_mustZeroB_iff,
    opcodeBits_mem_mustZeroC_iff, or_iff_right (not_or.mpr ⟨h0, hF⟩)]
  rfl

/-- The bounds 256, 32 and 16 of a too wide operand are those of the opcode's input width (R68). -/
theorem tooWideOperand_iff_tooWide {cmd : Word} {o : Opcode} (h : fieldOp cmd = opcodeBits o) :
    TooWideOperand cmd ↔ tooWide o (fieldA cmd) = true := by
  have hop : cmd.extractLsb' 28 4 = opcodeBits o := h
  rw [TooWideOperand, hop, tooWide_iff, fieldA]
  have hbound := (cmd.extractLsb' 16 10).isLt
  generalize cmd.extractLsb' 16 10 = a at hbound ⊢
  cases o <;> simp [opcodeBits, inputWidth, hbound]

/-- A command without a cause of ILLEGAL has an assigned opcode, and none of the causes in its fields. -/
theorem exists_opcode_of_not_illegalCommand {p : Parameters} {cmd : Word} (h : ¬ IllegalCommand p cmd) :
    ∃ o, fieldOp cmd = opcodeBits o ∧ ¬ illegalCause p o (fieldRsv cmd) (fieldB cmd) (fieldC cmd) := by
  obtain ⟨hreserved, -⟩ | ⟨o, hop, -⟩ := opcodeOf_cases (fieldOp cmd)
  · exact absurd (illegalCommand_of_reserved p hreserved) h
  · exact ⟨o, hop, (illegalCommand_iff_illegalCause p hop).not.mp h⟩

/-! ### `Exec` by its three outcomes (R204) -/

theorem execWord_of_illegalCommand {p : Parameters} {cmd : Word} (h : IllegalCommand p cmd) :
    execWord p cmd = 0x10000000 := by
  obtain ⟨hreserved, -⟩ | ⟨o, hop, -⟩ := opcodeOf_cases (fieldOp cmd)
  · exact execWord_of_reserved p hreserved
  · rw [execWord_of_opcodeBits p hop,
      commandStatus_of_illegalCause _ ((illegalCommand_iff_illegalCause p hop).mp h), responseWord_illegal]

theorem execWord_of_tooWideOperand {p : Parameters} {cmd : Word} (h : ¬ IllegalCommand p cmd)
    (hwide : TooWideOperand cmd) :
    execWord p cmd = if (cmd.extractLsb' 28 4).toNat ∈ [0x2, 0x3] then 0x30000000 else 0x20000000 := by
  obtain ⟨o, hop, hcause⟩ := exists_opcode_of_not_illegalCommand h
  have hbits : cmd.extractLsb' 28 4 = opcodeBits o := hop
  rw [execWord_of_opcodeBits p hop, commandStatus_of_tooWide hcause ((tooWideOperand_iff_tooWide hop).mp hwide),
    responseWord_widthError, hbits]
  simp

/-- Neither ILLEGAL nor too wide: the status is OK, and only the result can be non-zero (R70). -/
theorem execWord_of_fits {p : Parameters} {cmd : Word} (h : ¬ IllegalCommand p cmd) (hfits : ¬ TooWideOperand cmd) :
    (execWord p cmd).extractLsb' 16 16 = 0 := by
  obtain ⟨o, hop, hcause⟩ := exists_opcode_of_not_illegalCommand h
  have hnarrow := Bool.eq_false_iff.mpr ((tooWideOperand_iff_tooWide hop).not.mp hfits)
  rw [execWord_of_opcodeBits p hop, commandStatus_of_fits hcause hnarrow, responseWord_ok]
  exact extractLsb'_zero_append _ (le_refl 16)

/-- No other outcome than the causes of R202 gives the ILLEGAL response. -/
theorem execWord_eq_illegal_iff (p : Parameters) (cmd : Word) :
    execWord p cmd = 0x10000000 ↔ IllegalCommand p cmd := by
  refine ⟨fun hexec => ?_, execWord_of_illegalCommand⟩
  by_contra h
  by_cases hwide : TooWideOperand cmd
  · rw [execWord_of_tooWideOperand h hwide] at hexec
    split at hexec <;> exact absurd hexec (by decide)
  · have hzero := execWord_of_fits h hwide
    rw [hexec] at hzero
    exact absurd hzero (by decide)

/-! ### The statements on statuses -/

/-- Settles O38: the delivered response is `Exec` of the word, which is 0x10000000 for the causes of R202 alone. -/
theorem illegalCausesAnsweredIllegal : Obligations.IllegalCausesAnsweredIllegal := by
  intro s cmd rest hq
  rw [stepDeliversExec s cmd rest hq, ← execWord_eq_illegal_iff]
  simp

/-- A command whose input fills field A has no too wide operand: its OP is in none of the lists of narrower inputs. -/
theorem not_tooWideOperand_of_ten {cmd : Word} (h : (cmd.extractLsb' 28 4).toNat ∈ [0x1, 0x4, 0x5]) :
    ¬ TooWideOperand cmd := by
  simp only [TooWideOperand, List.mem_cons, List.not_mem_nil, or_false] at h ⊢
  omega

/-- Settles O39: a too wide operand is answered RANGE exactly for ENC and DEC, whose OP is in neither list of the others. -/
theorem widthErrorsNeverTruncate : Obligations.WidthErrorsNeverTruncate := by
  refine ⟨fun s cmd rest hq h hwide => ⟨fun hcipher => ?_, fun hunit => ?_⟩, fun cmd hten => ?_⟩
  · rw [stepDeliversExec s cmd rest hq, execWord_of_tooWideOperand h hwide, if_pos hcipher]
  · have hother : (cmd.extractLsb' 28 4).toNat ∉ [0x2, 0x3] := by
      simp only [List.mem_cons, List.not_mem_nil, or_false] at hunit ⊢
      omega
    rw [stepDeliversExec s cmd rest hq, execWord_of_tooWideOperand h hwide, if_neg hother]
  · exact ⟨not_tooWideOperand_of_ten hten, (cmd.extractLsb' 16 10).isLt⟩

/-- The first example of R204: ENC of code 0x100, whatever the parameters are. -/
theorem execWord_range_example (p : Parameters) : execWord p 0x2100E501 = 0x30000000 := by
  have hlegal : ¬ IllegalCommand p 0x2100E501 :=
    (illegalCommand_iff_illegalCause p (o := .enc) rfl).not.mpr (not_illegalCause_enc p _ _)
  exact execWord_of_tooWideOperand hlegal (.inl (by decide))

/-- The second example of R204: the same with a non-zero RSV. -/
theorem execWord_illegal_example (p : Parameters) : execWord p 0x2500E501 = 0x10000000 :=
  execWord_of_illegalCommand (.inr (.inr (.inl (by decide))))

/-- Settles O40: the one response is `Exec` of the word, by its three outcomes. -/
theorem oneStatusByPriority : Obligations.OneStatusByPriority := by
  refine ⟨fun s cmd rest hq => ?_, fun s rest => ⟨fun hq => ?_, fun hq => ?_⟩⟩
  · exact ⟨execWord s.params cmd, stepDeliversExec s cmd rest hq, execWord_of_illegalCommand,
      execWord_of_tooWideOperand, execWord_of_fits⟩
  · rw [stepDeliversExec s _ rest hq, execWord_range_example]
  · rw [stepDeliversExec s _ rest hq, execWord_illegal_example]

/-! ### Instances (R10, R222) -/

/-- An event at one place reaches the core in that place only. -/
theorem actAt_getElem? (which : Nat) (a : Action) (sys : Instances) (i : Nat) :
    (actAt which a sys).cores[i]? = if which = i then sys.cores[i]?.map (act a) else sys.cores[i]? := by
  by_cases h : which = i <;> simp [actAt, h]

theorem actionsAt_cons (i which : Nat) (a : Action) (events : List (Nat × Action)) :
    actionsAt i ((which, a) :: events) = if which = i then a :: actionsAt i events else actionsAt i events := by
  by_cases h : which = i <;> simp [actionsAt, h]

theorem runInstances_getElem? (events : List (Nat × Action)) (sys : Instances) (i : Nat) :
    (runInstances events sys).cores[i]? = sys.cores[i]?.map (runActions (actionsAt i events)) := by
  induction events generalizing sys with
  | nil => cases h : sys.cores[i]? <;> simp [runInstances, actionsAt, runActions, h]
  | cons event events ih =>
    obtain ⟨which, a⟩ := event
    rw [runInstances, ih, actAt_getElem?, actionsAt_cons]
    by_cases h : which = i
    · simp only [h, if_true, Option.map_map]
      rfl
    · simp only [h, if_false]

/-- Settles O54, by induction on the interleaving: the event in front joins the own events of its core and passes the others by. -/
theorem instancesDoNotInterfere : Obligations.InstancesDoNotInterfere := by
  refine ⟨runInstances_getElem?, ?_, fun c hc => ?_⟩
  · rw [Instances.reset, List.length_replicate, Config.numInstances]
    exact Nat.le_add_left 1 _
  · exact List.eq_of_mem_replicate hc

end Sys2Proof.Machine

/-! Reset and hazards (70_reset_and_hazards.md): what follows a reset, what a finished run is observed to do, and that steps empty
the queue. -/

namespace Sys2Proof.Machine

/-! ### One command from an empty queue (R230, R231) -/

/-- An empty queue takes an offered word, whatever the bound. -/
theorem act_accept_of_pending_nil {s : State} (w : Word) (h : s.pending = []) :
    act (.accept w) s = { s with pending := [w] } := by
  have haccept : act (.accept w) s = { s with pending := s.pending ++ [w] } :=
    accept_of_canAccept w (canAccept_of_pending_nil h)
  rw [haccept, h, List.nil_append]

/-- From an empty queue, a word offered and completed adds `Exec` of the word to the responses. -/
theorem act_complete_accept_of_pending_nil {s : State} (cmd : Word) (h : s.pending = []) :
    act .complete (act (.accept cmd) s)
      = { s with pending := [], responses := s.responses ++ [execWord s.params cmd] } := by
  rw [act_accept_of_pending_nil cmd h, act_complete_of_pending_cons rfl]
  rfl

/-- Settles O49: the reset state has an empty queue, so the word is its only one; the hypothesis that the port is ready is met
after every reset. -/
theorem resetEmptiesQueueOnly : Obligations.ResetEmptiesQueueOnly :=
  ⟨fun _ => rfl, fun s cmd _ => act_complete_accept_of_pending_nil cmd (resetCore_pending s)⟩

/-- Settles O56: both states have an empty queue, which takes the word whatever the bound (R231). -/
theorem resetCoreAcceptsCommands : Obligations.ResetCoreAcceptsCommands := by
  refine ⟨fun s cmd => ⟨?_, ?_⟩, fun cmd => ⟨?_, ?_⟩⟩
  · exact act_accept_of_pending_nil cmd (resetCore_pending s)
  · exact act_complete_accept_of_pending_nil cmd (resetCore_pending s)
  · exact act_accept_of_pending_nil cmd reset_pending
  · exact act_complete_accept_of_pending_nil cmd reset_pending

/-! ### Observations across a reset (R244) -/

/-- `s` with the responses `past` delivered before its own. -/
def withPast (past : List Word) (s : State) : State :=
  { s with responses := past ++ s.responses }

theorem accept_withPast (w : Word) (past : List Word) (s : State) :
    accept w (withPast past s) = withPast past (accept w s) := by
  have hready : canAccept (withPast past s) = canAccept s := canAccept_congr rfl rfl
  by_cases h : canAccept s = true
  · rw [accept_of_canAccept w h, accept_of_canAccept w (hready.trans h)]
    rfl
  · rw [accept_of_not_canAccept w h, accept_of_not_canAccept w (hready ▸ h)]

/-- Each event does the same, whatever was delivered before (R26). -/
theorem act_withPast (a : Action) (past : List Word) (s : State) :
    act a (withPast past s) = withPast past (act a s) := by
  cases a with
  | accept w => exact accept_withPast w past s
  | complete =>
    cases hq : s.pending with
    | nil =>
      have hq' : (withPast past s).pending = [] := hq
      rw [act_complete_of_pending_nil hq, act_complete_of_pending_nil hq']
    | cons cmd rest =>
      have hq' : (withPast past s).pending = cmd :: rest := hq
      rw [act_complete_of_pending_cons hq, act_complete_of_pending_cons hq']
      simp [withPast, deliver]
  | reset => rfl

theorem runActions_withPast (as : List Action) (past : List Word) (s : State) :
    runActions as (withPast past s) = withPast past (runActions as s) := by
  induction as generalizing s with
  | nil => rfl
  | cons a as ih => rw [runActions, act_withPast, ih, runActions]

/-- A reset after a run gives the run's first state with nothing pending, after all that the run delivered: no event writes the
parameters. -/
theorem resetCore_runActions (as : List Action) (s : State) :
    resetCore (runActions as s) = withPast (runActions as s).responses { s with pending := [], responses := [] } := by
  simp [resetCore, withPast]

/-- A run that begins and ends with an empty queue owes nothing, so what it delivers is `Exec` of all it accepts. -/
theorem responses_runActions_of_pending_nil {as : List Action} {s : State} (h : ∀ a ∈ as, a ≠ .reset)
    (hbegin : s.pending = []) (hend : (runActions as s).pending = []) :
    (runActions as s).responses = s.responses ++ (acceptedWords as s).map (execWord s.params) := by
  have hall := eventualResponses_runActions as s h
  simpa [eventualResponses, hbegin, hend] using hall

/-- A run after a reset delivers what it delivers from the reset state with nothing delivered, after what came before. -/
theorem responses_runActions_reset (as bs : List Action) (s : State) :
    (runActions (as ++ .reset :: bs) s).responses
      = (runActions as s).responses ++ (runActions bs { s with pending := [], responses := [] }).responses := by
  have hrun : runActions (as ++ .reset :: bs) s = runActions bs (resetCore (runActions as s)) := runActions_append as _ s
  rw [hrun, resetCore_runActions, runActions_withPast]
  rfl

/-- Settles O50: the eventual responses of a finished run are all delivered, and events do not read the responses (R244). -/
theorem runObservation : Obligations.RunObservation :=
  ⟨fun _ _ => responses_runActions_of_pending_nil, responses_runActions_reset⟩

/-! ### Steps empty the queue (R243) -/

/-- A run of steps is as many completions: no step stops (R210). -/
theorem run_eq_runActions_complete (n : Nat) (s : State) :
    Host.Core.run Sys2Proof.core n s = .next (runActions (List.replicate n .complete) s) := by
  induction n generalizing s with
  | zero => exact run_zero s
  | succ n ih =>
    obtain ⟨t, ht⟩ := exists_step_eq_next s
    rw [run_succ_of_next n ht, ih, List.replicate_succ, runActions, act_complete_of_next ht]

/-- Settles O51: the steps are as many completions as commands are pending, and each answer is `Exec` of its word. -/
theorem queueDrains : Obligations.QueueDrains := by
  intro s
  have hanswer : answer s.params = execWord s.params := funext (answer_eq_execWord s.params)
  rw [run_eq_runActions_complete, runActions_replicate_complete rfl, hanswer]

end Sys2Proof.Machine

/-! The word and its command (30_encoding.md): decoding and encoding undo each other, the opcode table selects the well-formed
commands, and the assembler writes the command of its operands. -/

namespace Sys2Proof.Machine

/-! ### A word is its five fields (R60) -/

/-- The five fields cover the word, so putting them together gives it back. -/
theorem wordOf_fieldOp_fieldsOf (w : Word) : wordOf (fieldOp w) (fieldsOf w) = w := by
  simp only [wordOf, fieldOp, fieldsOf, fieldRsv, fieldA, fieldB, fieldC, BitVec.cast_eq]
  rw [BitVec.extractLsb'_append_extractLsb'_eq_extractLsb' (by decide),
    BitVec.extractLsb'_append_extractLsb'_eq_extractLsb' (by decide),
    BitVec.extractLsb'_append_extractLsb'_eq_extractLsb' (by decide),
    BitVec.extractLsb'_append_extractLsb'_eq_extractLsb' (by decide), BitVec.extractLsb'_eq_self]

theorem eq_iff_fields_eq (x y : Word) : x = y ↔ fieldOp x = fieldOp y ∧ fieldsOf x = fieldsOf y := by
  constructor
  · rintro rfl
    exact ⟨rfl, rfl⟩
  · rintro ⟨hop, hfields⟩
    rw [← wordOf_fieldOp_fieldsOf x, ← wordOf_fieldOp_fieldsOf y, hop, hfields]

@[simp] theorem instrOf_opcode_fields (i : Instr) : instrOf i.opcode i.fields = i := by
  cases i <;> rfl

/-- Decoding, both ways: a word decodes to the command whose opcode and fields are the word's, and to no other. -/
theorem decode_eq_ok_iff (w : Word) (i : Instr) :
    decode w = .ok i ↔ fieldOp w = opcodeBits i.opcode ∧ fieldsOf w = i.fields := by
  constructor
  · intro hdec
    obtain ⟨-, hnone⟩ | ⟨o, hop, hsome⟩ := opcodeOf_cases (fieldOp w)
    · simp [decode, hnone] at hdec
    · obtain rfl : instrOf o (fieldsOf w) = i := by simpa [decode, hsome] using hdec
      simp [hop]
  · rintro ⟨hop, hfields⟩
    rw [decode_of_fieldOp_eq i.opcode (congrArg BitVec.toNat hop), hfields, instrOf_opcode_fields]

theorem encode_of_decode_eq_ok {w : Word} {i : Instr} (h : decode w = .ok i) : encode i = w := by
  obtain ⟨hop, hfields⟩ := (decode_eq_ok_iff w i).mp h
  rw [encode, ← hop, ← hfields, wordOf_fieldOp_fieldsOf]

/-- Settles O2: OP of the encoding selects the command's opcode, and every other field is read back from its place. -/
theorem decodeOfEncode : Obligations.DecodeOfEncode :=
  decode_encode

/-- Settles O3: the command holds the fields of the word, and the five fields are the whole word. -/
theorem encodeOfDecode : Obligations.EncodeOfDecode :=
  fun _ _ => encode_of_decode_eq_ok

/-- Settles O5: each word is the encoding of its command; the last has a reserved OP. -/
theorem sampleWordsDecode : Obligations.SampleWordsDecode :=
  ⟨decode_encode (.derive 0 666 0 0), decode_encode (.enc 0 97 0xE5 0x63), decode_encode (.dec 0 40 0xE5 0x63),
    decode_encode (.rotl5 0 0x19 0 2), decode_encode (.round 0 0xA4 0xE5 0), decode_encode (.enc 1 0x100 0xE5 0x63),
    decode_of_reserved (w := 0xF0000000) (.inr rfl)⟩

/-! ### The opcode table (R66 to R68) -/

theorem wellFormed_iff (i : Instr) :
    i.WellFormed = true ↔ i.fields.rsv = 0 ∧ (mustZeroB i.opcode = true → i.fields.b = 0) ∧
      (mustZeroC i.opcode = true → i.fields.c = 0) ∧ i.fields.a.toNat < 2 ^ inputWidth i.opcode := by
  simp [Instr.WellFormed, Instr.reservedIsZero, Instr.unusedBIsZero, Instr.unusedCIsZero, Instr.operandFits,
    tooWide_eq_false_iff, imp_iff_not_or, and_assoc]

/-- The bits at and above place `k` are all zero exactly in a number below `2 ^ k`. -/
theorem and_allOnes_shiftLeft_eq_zero_iff {n : Nat} (x : BitVec n) (k : Nat) :
    x &&& BitVec.allOnes n <<< k = 0 ↔ x.toNat < 2 ^ k := by
  constructor
  · intro hzero
    refine Nat.lt_pow_two_of_testBit _ fun j hj => ?_
    rw [BitVec.testBit_toNat]
    by_cases hjn : j < n
    · have hbit := congrArg (·.getLsbD j) hzero
      simpa [hjn, hj.not_gt] using hbit
    · exact BitVec.getLsbD_of_ge x j (not_lt.mp hjn)
  · intro hlt
    apply BitVec.eq_of_getLsbD_eq
    intro j hj
    by_cases hjk : j < k
    · simp [hjk]
    · have hbit : x.getLsbD j = false :=
        Nat.testBit_lt_two_pow (hlt.trans_le (Nat.pow_le_pow_right two_pos (not_lt.mp hjk)))
      simp [hbit]

/-- The mask of an 8-bit field that is checked where `checked` holds. -/
def fieldMask (checked : Bool) : BitVec 8 :=
  if checked then BitVec.allOnes 8 else 0

theorem and_fieldMask_eq_zero_iff (x : BitVec 8) (checked : Bool) :
    x &&& fieldMask checked = 0 ↔ (checked = true → x = 0) := by
  cases checked with
  | false => simp [fieldMask]
  | true => rw [fieldMask, if_pos rfl, BitVec.and_allOnes, eq_self_iff_true, true_imp_iff]

/-- The mask of a row, field by field: OP and RSV whole, A above the input width, B and C where they must be zero. -/
def maskFields (o : Opcode) : Fields :=
  ⟨BitVec.allOnes 2, BitVec.allOnes 10 <<< inputWidth o, fieldMask (mustZeroB o), fieldMask (mustZeroC o)⟩

theorem opcodeTable_fields : ∀ r ∈ opcodeTable,
    (fieldOp r.mask = BitVec.allOnes 4 ∧ fieldsOf r.mask = maskFields r.opcode) ∧
      (fieldOp r.matchBits = opcodeBits r.opcode ∧ fieldsOf r.matchBits = ⟨0, 0, 0, 0⟩) := by
  decide

theorem exists_row (o : Opcode) : ∃ r ∈ opcodeTable, r.opcode = o := by
  cases o <;> decide

theorem fieldOp_and (x y : Word) : fieldOp (x &&& y) = fieldOp x &&& fieldOp y :=
  BitVec.extractLsb'_and

theorem fieldsOf_and (x y : Word) :
    fieldsOf (x &&& y) = ⟨(fieldsOf x).rsv &&& (fieldsOf y).rsv, (fieldsOf x).a &&& (fieldsOf y).a,
      (fieldsOf x).b &&& (fieldsOf y).b, (fieldsOf x).c &&& (fieldsOf y).c⟩ := by
  simp [fieldsOf, fieldRsv, fieldA, fieldB, fieldC, BitVec.extractLsb'_and]

/-- A word matches a row where its OP is that of the row's opcode and its other fields pass the checks of R66 to R68. -/
theorem rowMatches_iff {r : TableRow} (hr : r ∈ opcodeTable) (w : Word) :
    rowMatches r w = true ↔
      fieldOp w = opcodeBits r.opcode ∧ (instrOf r.opcode (fieldsOf w)).WellFormed = true := by
  obtain ⟨⟨hmaskOp, hmask⟩, hmatchOp, hmatch⟩ := opcodeTable_fields r hr
  rw [rowMatches, beq_iff_eq, eq_iff_fields_eq, fieldOp_and, fieldsOf_and, hmaskOp, hmask, hmatchOp, hmatch,
    BitVec.and_allOnes, wellFormed_iff, instrOf_opcode, instrOf_fields]
  simp only [maskFields, Fields.mk.injEq, BitVec.and_allOnes, and_allOnes_shiftLeft_eq_zero_iff,
    and_fieldMask_eq_zero_iff]
  tauto

/-- Settles O4: a row's mask and match make the checks of R66 to R68 on the fields, and OP alone picks the command. -/
theorem tableRowsSelectWellFormed : Obligations.TableRowsSelectWellFormed := by
  refine ⟨fun i => exists_row i.opcode, fun r hr w => ?_⟩
  rw [rowMatches_iff hr]
  constructor
  · rintro ⟨hop, hwf⟩
    exact ⟨_, decode_of_fieldOp_eq r.opcode (congrArg BitVec.toNat hop), instrOf_opcode _ _, hwf⟩
  · rintro ⟨i, hdec, hopcode, hwf⟩
    obtain ⟨hop, hfields⟩ := (decode_eq_ok_iff w i).mp hdec
    rw [← hopcode, hfields, instrOf_opcode_fields]
    exact ⟨hop, hwf⟩

/-! ### The assembler (R72) -/

/-- Operands that fit their fields are placed as given: the word is that of the command with these fields and RSV zero. -/
theorem assembleFields_of_fits (o : Opcode) {a b c : Nat} (ha : a < 1024) (hb : b < 256) (hc : c < 256) :
    assembleFields (opcodeBits o).toNat a b c
      = .ok (encode (instrOf o ⟨0, BitVec.ofNat 10 a, BitVec.ofNat 8 b, BitVec.ofNat 8 c⟩)) := by
  rw [assembleFields, if_pos ⟨ha, hb, hc⟩, encode, instrOf_opcode, instrOf_fields, BitVec.ofNat_toNat, BitVec.setWidth_eq]

theorem assembleFields_of_misfit (op : Nat) {a b c : Nat} (h : 1024 ≤ a ∨ 256 ≤ b ∨ 256 ≤ c) :
    assembleFields op a b c = .error .operandDoesNotFit :=
  if_neg (by omega)

/-- Settles O55: each line is one placing of fields, with 0 where the opcode uses none of B and C, and 0 fits. -/
theorem assemblerPlacesOperandsUnchanged : Obligations.AssemblerPlacesOperandsUnchanged := by
  have hzero : 0 < 256 := by decide
  refine ⟨fun a b c ha hb hc => ?_, fun a b c h => ?_, fun a ha l hl => ?_, fun a b h => ?_, fun _ => rfl⟩
  · exact ⟨assembleFields_of_fits .derive ha hzero hzero, assembleFields_of_fits .enc ha hb hc,
      assembleFields_of_fits .dec ha hb hc, assembleFields_of_fits .permP10 ha hzero hzero,
      assembleFields_of_fits .permP8 ha hzero hzero, assembleFields_of_fits .permP4 ha hzero hzero,
      assembleFields_of_fits .permEP ha hzero hzero, assembleFields_of_fits .permIP1 ha hzero hzero,
      assembleFields_of_fits .permIP2 ha hzero hzero, assembleFields_of_fits .rotl5 ha hzero hc,
      assembleFields_of_fits .sbox1 ha hzero hzero, assembleFields_of_fits .sbox2 ha hzero hzero,
      assembleFields_of_fits .round ha hb hzero, assembleFields_of_fits .swap ha hzero hzero⟩
  · exact ⟨assembleFields_of_misfit 0x2 h, assembleFields_of_misfit 0x3 h⟩
  · simp only [List.mem_cons, List.not_mem_nil, or_false] at hl
    rcases hl with rfl | rfl | rfl | rfl | rfl | rfl | rfl | rfl | rfl | rfl <;>
      exact assembleFields_of_misfit _ (.inl ha)
  · exact ⟨assembleFields_of_misfit 0xA (h.imp_right .inr), assembleFields_of_misfit 0xD (h.imp_right .inl)⟩

/-! ### Runs and reset (R28, R210) -/

/-- Settles O42: a run of steps is as many completions, and every completion has a next state (R210). -/
theorem runNeverStops : Obligations.RunNeverStops :=
  fun n s => ⟨_, run_eq_runActions_complete n s⟩

/-- An empty queue is within every bound. -/
theorem withinBound_of_pending_nil {s : State} (h : s.pending = []) : withinBound s = true := by
  rw [withinBound_iff, h]
  exact fun bound _ => Nat.zero_le bound

/-- Settles O44: there is no response to be unsound, and the empty queue is within the chip's bound (R28). -/
theorem resetIsSound : Obligations.ResetIsSound :=
  ⟨(sound_iff State.reset).mpr ⟨rfl, withinBound_of_pending_nil reset_pending⟩, rfl, rfl⟩

end Sys2Proof.Machine
